-- ==== Sys2Proof/Word.lean ====
section
/-!
DEFINITION. Word: the word types the spec writes as bits (00_scope R7, R11). Bit 0 of a value is its least
significant bit. Operands that the spec calls integers or booleans are `Int` and `Bool`, not words.
-/

namespace Sys2Proof

/-- A byte: 8 bits (00_scope R11). A row byte, a frame byte, a controller register's data. -/
abbrev Byte := BitVec 8

/-- The 32-bit command word CMD32 the host presents on the command port (30_encoding R88). -/
abbrev CmdWord := BitVec 32

/-- The 16-bit wire word WIRE16 one controller receives in one frame: data[15:8], opcode[7:0] (30_encoding R80). -/
abbrev WireWord := BitVec 16

end Sys2Proof
end

