-- ==== Sys2Proof/Config.lean ====
section
/-!
DEFINITION. Config: what an implementation fixes and the spec leaves open (00_scope R10, 10_state R36), and the free
values. A constant declared `opaque` has no body: no proof can learn its value, so a claim holds for every value.
-/

namespace Sys2Proof.Config

/-- N, the number of chained controllers: 2 for this hardware (00_scope R8). The model's text is written over N. -/
abbrev numControllers : Nat := 2

/-- INIT_INTENSITY, the mid-level intensity `initialize` writes: the spec leaves it OPEN, an integer in [0,16)
(00_scope R10, 92 D2). DESIGN CHOICE: kept open (log 3). Safe. -/
opaque initIntensity : Fin 16

/-- DATA_RESET, the level of the DATA latch at reset: OPEN, 0 or 1 (00_scope R10, 10_state R37). DESIGN CHOICE: kept
open (log 4). Safe. -/
opaque dataReset : Bool

/-- CLK_RESET, the level of the CLK latch at reset: OPEN, 0 or 1 (00_scope R10, 10_state R37). DESIGN CHOICE: kept
open (log 4). Safe. -/
opaque clkReset : Bool

/-- LOAD_RESET, the level of the LOAD latch at reset: OPEN, 0 or 1 (00_scope R10, 10_state R37). DESIGN CHOICE: kept
open (log 4). Safe. -/
opaque loadReset : Bool

/-- DECODE_OFF, the decode-mode data that means "no decode": 0x00 (00_scope R10, 92 D9). PRESUMED: the spec itself took
it from general knowledge, 93 G1 (log 5). Unsafe. -/
def decodeOff : Byte := 0x00

/-- FREE VALUE of a controller register that has become unknown (42 R178, R181): `freeRegister n a` is what register
address `a` holds after the `n`-th event that made something unknown (log 8). Safe. -/
opaque freeRegister : Nat → Nat → Byte

/-- FREE VALUE of a bit of the chain that has become unknown (42 R180, R181): `freeBit n i` is bit `i` after the `n`-th
event that made something unknown (log 8). Safe. -/
opaque freeBit : Nat → Nat → Bool

end Sys2Proof.Config
end

