-- ==== Sys2Proof/Syntax.lean ====
section
/-!
DEFINITION. Syntax: the two levels of instructions (00_scope R3), one constructor per row of spec/opcode_table.json.
-/

namespace Sys2Proof

/-- Position of a controller in the chain, 0 nearest the block (42 R160). -/
abbrev Position := Fin Config.numControllers

/-- The instructions. Level C, the eleven commands the host gives (30_encoding R89, R95): their operands are already
the integers, bytes and booleans of R90, in the order of the source's call notation. Level W, the fourteen wire words
(30_encoding R82): `k` is the position in the frame, which alone selects the controller that performs the word
(20_memory R52; log 16), and `data` the word's data byte (log 25 for the integer operands and one spelling). -/
inductive Instr where
  | writeBit (value : Bool)
  | writeByte (byte : Byte)
  | transmit (controllerIndex : Int) (opcode data : Byte)
  /-- The command `initialize()` (spelled with an s here: the other spelling is a Lean keyword). -/
  | initialise
  | shutdown (controllerIndex : Int) (enabled : Bool)
  | setIntensity (controllerIndex level : Int)
  | setScanLimit (controllerIndex limit : Int)
  | setDecodeMode (controllerIndex : Int) (mode : Byte)
  | clearDisplay (controllerIndex : Int)
  | setLed (controllerIndex row column : Int) (state : Bool)
  | displayTest (controllerIndex : Int) (enabled : Bool)
  | wNoop (k : Position) (data : Byte)
  | wDigit0 (k : Position) (data : Byte)
  | wDigit1 (k : Position) (data : Byte)
  | wDigit2 (k : Position) (data : Byte)
  | wDigit3 (k : Position) (data : Byte)
  | wDigit4 (k : Position) (data : Byte)
  | wDigit5 (k : Position) (data : Byte)
  | wDigit6 (k : Position) (data : Byte)
  | wDigit7 (k : Position) (data : Byte)
  | wDecodeMode (k : Position) (data : Byte)
  | wIntensity (k : Position) (data : Byte)
  | wScanLimit (k : Position) (data : Byte)
  | wShutdown (k : Position) (data : Byte)
  | wDisplayTest (k : Position) (data : Byte)
  deriving DecidableEq, Repr

end Sys2Proof
end

