-- ==== Sys2Proof/WellFormed.lean ====
section
/-!
DEFINITION. WellFormed: which instructions an encoding can carry. A checked operand of a command is a mathematical
integer (00_scope R11); the 8-bit signed field of CMD32 carries -128 to 127 (30_encoding R90). An integer inside that
range but outside the command's own range (a row of 9) is well formed: it is a legal word whose command is a silent
no-op (30_encoding R93).
-/

namespace Sys2Proof

/-- The integers an 8-bit two's-complement field carries (30_encoding R90). -/
abbrev fitsField (x : Int) : Prop := -128 ≤ x ∧ x ≤ 127

/-- The instruction has an encoding. -/
abbrev Instr.WellFormed (i : Instr) : Prop :=
  match i with
  | .writeBit _ => True
  | .writeByte _ => True
  | .transmit c _ _ => fitsField c
  | .initialise => True
  | .shutdown c _ => fitsField c
  | .setIntensity c level => fitsField c ∧ fitsField level
  | .setScanLimit c limit => fitsField c ∧ fitsField limit
  | .setDecodeMode c _ => fitsField c
  | .clearDisplay c => fitsField c
  | .setLed c row column _ => fitsField c ∧ fitsField row ∧ fitsField column
  | .displayTest c _ => fitsField c
  | .wNoop _ _ => True
  | .wDigit0 _ _ => True
  | .wDigit1 _ _ => True
  | .wDigit2 _ _ => True
  | .wDigit3 _ _ => True
  | .wDigit4 _ _ => True
  | .wDigit5 _ _ => True
  | .wDigit6 _ _ => True
  | .wDigit7 _ _ => True
  | .wDecodeMode _ _ => True
  | .wIntensity _ _ => True
  | .wScanLimit _ _ => True
  | .wShutdown _ _ => True
  | .wDisplayTest _ _ => True

end Sys2Proof
end

