-- ==== Sys2Proof/Decode.lean ====
section
/-!
DEFINITION. Decode: from the two encodings of 30_encoding (CMD32 and WIRE16) to instructions and back. The decoder is
total: every word is exactly one instruction or is rejected by name (R92).
-/

namespace Sys2Proof

/-- Why a word spells no instruction. -/
inductive Reject where
  /-- A command word whose `op` is 0 or 12 to 15 (30_encoding R92). -/
  | noSuchCommand (op : BitVec 4)
  /-- A command word whose `zero` field is not 0b000 (30_encoding R91, R92). -/
  | zeroFieldSet
  /-- A command word with a non-zero field that its command does not use (30_encoding R91, R92). -/
  | unusedFieldSet
  /-- A wire word whose opcode is 13, 14 or 16 to 255 (30_encoding R85). -/
  | reservedOpcode (opcode : Byte)
  deriving DecidableEq, Repr

/-- An encoded instruction: a command word on the command port, or a wire word standing at position `k` of a frame. -/
inductive Encoded where
  | command (w : CmdWord)
  | wire (k : Position) (w : WireWord)
  deriving DecidableEq, Repr

/-! ### Fields (30_encoding R80, R88) -/

/-- Field `op`, bits 31 to 28 of CMD32. -/
def opField (w : CmdWord) : BitVec 4 := w.extractLsb' 28 4

/-- Field `zero`, bits 27 to 25 of CMD32. -/
def zeroField (w : CmdWord) : BitVec 3 := w.extractLsb' 25 3

/-- Field `s`, bit 24 of CMD32. -/
def sField (w : CmdWord) : Bool := w.getLsbD 24

/-- Field `a`, bits 23 to 16 of CMD32. -/
def aField (w : CmdWord) : Byte := w.extractLsb' 16 8

/-- Field `b`, bits 15 to 8 of CMD32. -/
def bField (w : CmdWord) : Byte := w.extractLsb' 8 8

/-- Field `c`, bits 7 to 0 of CMD32. -/
def cField (w : CmdWord) : Byte := w.extractLsb' 0 8

/-- `sext_8`: an 8-bit field read as a two's-complement integer (00_scope R12, 30_encoding R90). -/
def sext8 (f : Byte) : Int := f.toInt

/-- The 8-bit field that carries an integer, in two's complement (30_encoding R97). -/
def field8 (x : Int) : Byte := BitVec.ofInt 8 x

/-- Data byte of a wire word, bits 15 to 8 (30_encoding R80). -/
def wireData (w : WireWord) : Byte := w.extractLsb' 8 8

/-- Opcode byte of a wire word, bits 7 to 0 (30_encoding R80). -/
def wireOpcode (w : WireWord) : Byte := w.extractLsb' 0 8

/-! ### The opcode rows (30_encoding R82, R89) -/

/-- A row of the opcode map: a word `w` spells the row when `w &&& mask = pattern`. A WIRE16 row is written in the low
16 bits. -/
structure OpcodeRow where
  pattern : CmdWord
  mask : CmdWord
  deriving DecidableEq, Repr

/-- The row of the opcode map an instruction belongs to (30_encoding R82 for WIRE16, R89 for CMD32). -/
def opcodeRow (i : Instr) : OpcodeRow :=
  match i with
  | .writeBit _ => ⟨0x10000000, 0xFEFFFFFF⟩
  | .writeByte _ => ⟨0x20000000, 0xFFFFFF00⟩
  | .transmit _ _ _ => ⟨0x30000000, 0xFF000000⟩
  | .initialise => ⟨0x40000000, 0xFFFFFFFF⟩
  | .shutdown _ _ => ⟨0x50000000, 0xFE00FFFF⟩
  | .setIntensity _ _ => ⟨0x60000000, 0xFF0000FF⟩
  | .setScanLimit _ _ => ⟨0x70000000, 0xFF0000FF⟩
  | .setDecodeMode _ _ => ⟨0x80000000, 0xFF00FF00⟩
  | .clearDisplay _ => ⟨0x90000000, 0xFF00FFFF⟩
  | .setLed _ _ _ _ => ⟨0xA0000000, 0xFE000000⟩
  | .displayTest _ _ => ⟨0xB0000000, 0xFE00FFFF⟩
  | .wNoop _ _ => ⟨0x0000, 0x00FF⟩
  | .wDigit0 _ _ => ⟨0x0001, 0x00FF⟩
  | .wDigit1 _ _ => ⟨0x0002, 0x00FF⟩
  | .wDigit2 _ _ => ⟨0x0003, 0x00FF⟩
  | .wDigit3 _ _ => ⟨0x0004, 0x00FF⟩
  | .wDigit4 _ _ => ⟨0x0005, 0x00FF⟩
  | .wDigit5 _ _ => ⟨0x0006, 0x00FF⟩
  | .wDigit6 _ _ => ⟨0x0007, 0x00FF⟩
  | .wDigit7 _ _ => ⟨0x0008, 0x00FF⟩
  | .wDecodeMode _ _ => ⟨0x0009, 0x00FF⟩
  | .wIntensity _ _ => ⟨0x000A, 0x00FF⟩
  | .wScanLimit _ _ => ⟨0x000B, 0x00FF⟩
  | .wShutdown _ _ => ⟨0x000C, 0x00FF⟩
  | .wDisplayTest _ _ => ⟨0x000F, 0x00FF⟩

/-! ### Decoding -/

/-- The command an `op` selects, its operands assembled from the fields (30_encoding R89, R90). -/
def assembleCommand (w : CmdWord) : Option Instr :=
  match (opField w).toNat with
  | 1 => some (.writeBit (sField w))
  | 2 => some (.writeByte (cField w))
  | 3 => some (.transmit (sext8 (aField w)) (bField w) (cField w))
  | 4 => some .initialise
  | 5 => some (.shutdown (sext8 (aField w)) (sField w))
  | 6 => some (.setIntensity (sext8 (aField w)) (sext8 (bField w)))
  | 7 => some (.setScanLimit (sext8 (aField w)) (sext8 (bField w)))
  | 8 => some (.setDecodeMode (sext8 (aField w)) (cField w))
  | 9 => some (.clearDisplay (sext8 (aField w)))
  | 10 => some (.setLed (sext8 (aField w)) (sext8 (bField w)) (sext8 (cField w)) (sField w))
  | 11 => some (.displayTest (sext8 (aField w)) (sField w))
  | _ => none

/-- Decode a command word: look up the row of its `op`, compare under the row's mask, assemble (30_encoding R97). -/
def decodeCommand (w : CmdWord) : Except Reject Instr :=
  match assembleCommand w with
  | none => .error (.noSuchCommand (opField w))
  | some i =>
    if w &&& (opcodeRow i).mask = (opcodeRow i).pattern then .ok i
    else if zeroField w = 0 then .error .unusedFieldSet
    else .error .zeroFieldSet

/-- Decode the wire word standing at position `k`: all eight opcode bits are compared (30_encoding R82, R85). -/
def decodeWire (k : Position) (w : WireWord) : Except Reject Instr :=
  match (wireOpcode w).toNat with
  | 0 => .ok (.wNoop k (wireData w))
  | 1 => .ok (.wDigit0 k (wireData w))
  | 2 => .ok (.wDigit1 k (wireData w))
  | 3 => .ok (.wDigit2 k (wireData w))
  | 4 => .ok (.wDigit3 k (wireData w))
  | 5 => .ok (.wDigit4 k (wireData w))
  | 6 => .ok (.wDigit5 k (wireData w))
  | 7 => .ok (.wDigit6 k (wireData w))
  | 8 => .ok (.wDigit7 k (wireData w))
  | 9 => .ok (.wDecodeMode k (wireData w))
  | 10 => .ok (.wIntensity k (wireData w))
  | 11 => .ok (.wScanLimit k (wireData w))
  | 12 => .ok (.wShutdown k (wireData w))
  | 15 => .ok (.wDisplayTest k (wireData w))
  | _ => .error (.reservedOpcode (wireOpcode w))

/-- Decode an encoded instruction of either level. -/
def decode (e : Encoded) : Except Reject Instr :=
  match e with
  | .command w => decodeCommand w
  | .wire k w => decodeWire k w

/-! ### Encoding -/

/-- CMD32 from its fields: op, zero = 0b000, s, a, b, c, most significant first (30_encoding R88). -/
def packCommand (op : BitVec 4) (s : Bool) (a b c : Byte) : CmdWord :=
  op ++ (0 : BitVec 3) ++ BitVec.ofBool s ++ a ++ b ++ c

/-- WIRE16 from its fields (30_encoding R80). -/
def packWire (data opcode : Byte) : WireWord := data ++ opcode

/-- The word of an instruction; a field that a command does not use is zero (30_encoding R91, R97). -/
def encode (i : Instr) : Encoded :=
  match i with
  | .writeBit value => .command (packCommand 1 value 0 0 0)
  | .writeByte byte => .command (packCommand 2 false 0 0 byte)
  | .transmit c opcode data => .command (packCommand 3 false (field8 c) opcode data)
  | .initialise => .command (packCommand 4 false 0 0 0)
  | .shutdown c enabled => .command (packCommand 5 enabled (field8 c) 0 0)
  | .setIntensity c level => .command (packCommand 6 false (field8 c) (field8 level) 0)
  | .setScanLimit c limit => .command (packCommand 7 false (field8 c) (field8 limit) 0)
  | .setDecodeMode c mode => .command (packCommand 8 false (field8 c) 0 mode)
  | .clearDisplay c => .command (packCommand 9 false (field8 c) 0 0)
  | .setLed c row column state => .command (packCommand 10 state (field8 c) (field8 row) (field8 column))
  | .displayTest c enabled => .command (packCommand 11 enabled (field8 c) 0 0)
  | .wNoop k data => .wire k (packWire data 0)
  | .wDigit0 k data => .wire k (packWire data 1)
  | .wDigit1 k data => .wire k (packWire data 2)
  | .wDigit2 k data => .wire k (packWire data 3)
  | .wDigit3 k data => .wire k (packWire data 4)
  | .wDigit4 k data => .wire k (packWire data 5)
  | .wDigit5 k data => .wire k (packWire data 6)
  | .wDigit6 k data => .wire k (packWire data 7)
  | .wDigit7 k data => .wire k (packWire data 8)
  | .wDecodeMode k data => .wire k (packWire data 9)
  | .wIntensity k data => .wire k (packWire data 10)
  | .wScanLimit k data => .wire k (packWire data 11)
  | .wShutdown k data => .wire k (packWire data 12)
  | .wDisplayTest k data => .wire k (packWire data 15)

/-- An encoded word as one number over 32 bits (a wire word in the low 16), the form the opcode rows compare. -/
def Encoded.bits (e : Encoded) : CmdWord :=
  match e with
  | .command w => w
  | .wire _ w => w.setWidth 32

/-- The instruction the decoder reads from a table row's word: a row of at most 16 bits is a WIRE16 word, taken at
position 0 (a word clocked in alone stands in the controller nearest the block; log 16), any other a CMD32 word. -/
def decodeTableWord (nbits w : Nat) : Option Instr :=
  (if nbits ≤ 16 then decode (.wire 0 (BitVec.ofNat 16 w)) else decode (.command (BitVec.ofNat 32 w))).toOption

end Sys2Proof
end

