-- ==== Sys2Proof/Machine/State.lean ====
section
/-!
DEFINITION. Machine/State: everything the spec gives the machine to hold (10_state), as plain data, and its value at
reset (10_state R37). The block's own state and the state inside the chained controllers are kept apart: the latter is
the field `receiver`, which no rule of the block reads (00_scope R1: no read path exists).
-/

namespace Sys2Proof.Machine

/-- The three output lines (00_scope R7). -/
inductive Line where
  | data
  | clk
  | load
  deriving DecidableEq, Repr

/-- DIR[p]: not driven by the block, or driven at LEVEL[p] (10_state R25). -/
inductive Direction where
  | input
  | output
  deriving DecidableEq, Repr

/-- One pin: its output latch LEVEL[p] and its direction DIR[p] (10_state R24, R25). -/
structure Pin where
  level : Bool
  dir : Direction
  deriving DecidableEq, Repr

/-- The three pins. -/
structure Pins where
  data : Pin
  clk : Pin
  load : Pin
  deriving DecidableEq, Repr

/-- A pin event: `mode p` is `mode(p, output)` (10_state R27), `write p v` is `write(p, v)` (R28). -/
inductive PinEvent where
  | mode (p : Line)
  | write (p : Line) (v : Bool)
  deriving DecidableEq, Repr

/-- MODE[c], what the block last told controller c (10_state R30). -/
inductive Mode where
  | uninit
  | activeOn
  | activeShutdown
  deriving DecidableEq, Repr

/-- A register of a controller (10_state R32): the byte it holds, and the model's mark for the spec's "known" (42 R178,
R181; log 8). While the mark is false the byte is a free value. -/
structure ShadowReg where
  value : Byte
  known : Bool
  deriving DecidableEq, Repr

/-- SHADOW[c], the registers inside one controller (10_state R32). -/
structure Controller where
  digit : Vector ShadowReg 8
  decode : ShadowReg
  intensity : ShadowReg
  scanLimit : ShadowReg
  shutdown : ShadowReg
  test : ShadowReg
  deriving DecidableEq, Repr

/-- A bit of CHAIN (10_state R35), with the same mark (42 R180, R181; log 8). -/
structure ChainBit where
  value : Bool
  known : Bool
  deriving DecidableEq, Repr

/-- The chained controllers (10_state R35, R32): `chain` is CHAIN with CHAIN[0] first; `controllers` is SHADOW;
`latching` holds the positions that still have to perform their word of a LOAD edge (empty between commands; log 16);
`fresh` is the model's counter for free values (log 8). -/
structure Receiver where
  chain : List ChainBit
  controllers : Vector Controller Config.numControllers
  latching : List Position
  fresh : Nat
  deriving DecidableEq, Repr

/-- A byte space: address and byte pairs, addresses strictly rising, no pair whose byte is the 0x00 an unlisted address
reads as (`Memory.wf` in Machine/Ops.lean; log 17). -/
abbrev Memory := List Host.Cell

/-- The machine's state. `events` is TRACE with the newest event first (log 24); `program` is the host's command
sequence, which the spec makes a parameter of the step relation (10_state R36; log 1). -/
structure State where
  status : Memory
  frame : Memory
  pins : Pins
  mode : Vector Mode Config.numControllers
  cp : Nat
  events : List PinEvent
  program : List CmdWord
  receiver : Receiver
  deriving DecidableEq, Repr

/-- What stops the machine with a fault. The hardware raises none (60 R190, R197); these two say that an access left
the address space the spec gives (20_memory R50, R51). Both are safe: the machine stops. No command reaches them. -/
inductive Fault where
  /-- Raised by the STATUS accesses for an address not below 8 x N (20_memory R50). Safe. -/
  | statusAddress (address : Nat)
  /-- Raised by the FRAME accesses for an address not below 2 x N (20_memory R51). Safe. -/
  | frameAddress (address : Nat)
  deriving DecidableEq, Repr

/-- What the model refuses, because the spec gives it no meaning (60 R197). -/
inductive Refusal where
  /-- Raised by `exec` for an instruction without a meaning yet. Safe. -/
  | notModelled (mnemonic : String)
  /-- Raised by every command but `initialize` while some MODE[c] is Uninit (70 R223, 93 U7). Safe. -/
  | uninitialised
  /-- Raised by a raw `transmit` whose controller index is outside [0,N) (40 R113, 93 U2). Safe. -/
  | transmitIndex (controllerIndex : Int)
  deriving DecidableEq, Repr

/-- A register at reset: the spec gives no value and calls it unknown (10_state R37). DESIGN CHOICE: it holds 0x00 and
is marked unknown (log 6). -/
def ShadowReg.reset : ShadowReg := { value := 0x00, known := false }

/-- A controller at reset (10_state R37, 42 R181; log 6). -/
def Controller.reset : Controller where
  digit := Vector.replicate 8 ShadowReg.reset
  decode := ShadowReg.reset
  intensity := ShadowReg.reset
  scanLimit := ShadowReg.reset
  shutdown := ShadowReg.reset
  test := ShadowReg.reset

/-- The chain and the controllers at reset (10_state R37, 42 R181). DESIGN CHOICE: the unknown bits hold 0 and are
marked unknown (log 6). -/
def Receiver.reset : Receiver where
  chain := List.replicate (16 * Config.numControllers) { value := false, known := false }
  controllers := Vector.replicate Config.numControllers Controller.reset
  latching := []
  fresh := 0

/-- The machine right after power-on (10_state R37): STATUS zero, FRAME unspecified and never observable (DESIGN CHOICE:
zero, log 7), pins not driven with their latches at the open reset levels, every MODE Uninit, CP 0, TRACE empty, no
command presented yet (log 1). -/
def State.reset : State where
  status := []
  frame := []
  pins :=
    { data := { level := Config.dataReset, dir := .input }
      clk := { level := Config.clkReset, dir := .input }
      load := { level := Config.loadReset, dir := .input } }
  mode := Vector.replicate Config.numControllers .uninit
  cp := 0
  events := []
  program := []
  receiver := Receiver.reset

end Sys2Proof.Machine
end

