-- ==== Sys2Proof/Machine/Receiver.lean ====
section
/-!
DEFINITION. Machine/Receiver: the chained controllers (42_controller_register_writes): the rule of each wire word on one
controller's registers, the shift register, the latch, and how something becomes unknown. An unknown register or bit
holds a free value and carries the mark `known = false` (log 8). The controllers are taken to be connected and working
(93 U4, 60 R192; log 19).
-/

namespace Sys2Proof.Machine

/-! ### Unknown registers and bits -/

/-- A register whose value is known. -/
def knownReg (data : Byte) : ShadowReg := { value := data, known := true }

/-- Register address `a` after the `n`-th event that made something unknown: a free value (log 8). -/
def freeReg (n a : Nat) : ShadowReg := { value := Config.freeRegister n a, known := false }

/-- A controller all of whose registers are unknown (42 R178, R181): one free value per register address. -/
def unknownController (n : Nat) : Controller where
  digit := #v[freeReg n 1, freeReg n 2, freeReg n 3, freeReg n 4, freeReg n 5, freeReg n 6, freeReg n 7, freeReg n 8]
  decode := freeReg n 9
  intensity := freeReg n 10
  scanLimit := freeReg n 11
  shutdown := freeReg n 12
  test := freeReg n 15

/-- Every register of controller `k` becomes unknown (42 R178). -/
def Receiver.forgetController (k : Position) (r : Receiver) : Receiver :=
  { r with controllers := r.controllers.set k (unknownController r.fresh), fresh := r.fresh + 1 }

/-- The positions of the chain, 0 first. -/
def positions : List Position := List.finRange Config.numControllers

/-- Every register of every controller becomes unknown (42 R181). -/
def Receiver.forgetShadow (r : Receiver) : Receiver :=
  positions.foldl (fun r k => r.forgetController k) r

/-- The whole chain becomes unknown (42 R180, R181). -/
def Receiver.forgetChain (r : Receiver) : Receiver :=
  { r with
    chain := (List.range (16 * Config.numControllers)).map
      (fun i => { value := Config.freeBit r.fresh i, known := false })
    fresh := r.fresh + 1 }

/-! ### The wire words on one controller's registers (42 R164 to R177)

Each rule answers the controller after the word, or `none` where the data is outside the register's legal range
(30_encoding R82): the whole controller is then unknown (42 R178). -/

/-- Write the column pattern of row `r` (42 R165 to R172). -/
def writeDigit (r : Fin 8) (data : Byte) (c : Controller) : Option Controller :=
  some { c with digit := c.digit.set r (knownReg data) }

/-- W.NOOP: no register changes, whatever the data (42 R164). -/
def wNoopRule (_data : Byte) (c : Controller) : Option Controller := some c

/-- W.DIGIT0: DIGIT[0] <- data (42 R165). -/
def wDigit0Rule (data : Byte) (c : Controller) : Option Controller := writeDigit 0 data c

/-- W.DIGIT1: DIGIT[1] <- data (42 R166). -/
def wDigit1Rule (data : Byte) (c : Controller) : Option Controller := writeDigit 1 data c

/-- W.DIGIT2: DIGIT[2] <- data (42 R167). -/
def wDigit2Rule (data : Byte) (c : Controller) : Option Controller := writeDigit 2 data c

/-- W.DIGIT3: DIGIT[3] <- data (42 R168). -/
def wDigit3Rule (data : Byte) (c : Controller) : Option Controller := writeDigit 3 data c

/-- W.DIGIT4: DIGIT[4] <- data (42 R169). -/
def wDigit4Rule (data : Byte) (c : Controller) : Option Controller := writeDigit 4 data c

/-- W.DIGIT5: DIGIT[5] <- data (42 R170). -/
def wDigit5Rule (data : Byte) (c : Controller) : Option Controller := writeDigit 5 data c

/-- W.DIGIT6: DIGIT[6] <- data (42 R171). -/
def wDigit6Rule (data : Byte) (c : Controller) : Option Controller := writeDigit 6 data c

/-- W.DIGIT7: DIGIT[7] <- data (42 R172). -/
def wDigit7Rule (data : Byte) (c : Controller) : Option Controller := writeDigit 7 data c

/-- W.DECODEMODE: DECODE <- data, any byte (42 R173; what a non-zero value shows is R179 case 5). -/
def wDecodeModeRule (data : Byte) (c : Controller) : Option Controller :=
  some { c with decode := knownReg data }

/-- W.INTENSITY: INTENSITY <- data, legal 0 to 15 (42 R174). -/
def wIntensityRule (data : Byte) (c : Controller) : Option Controller :=
  if data.toNat < 16 then some { c with intensity := knownReg data } else none

/-- W.SCANLIMIT: SCANLIMIT <- data, legal 0 to 7 (42 R175). -/
def wScanLimitRule (data : Byte) (c : Controller) : Option Controller :=
  if data.toNat < 8 then some { c with scanLimit := knownReg data } else none

/-- W.SHUTDOWN: SHUTDOWN <- data, legal 0 or 1; no other register changes (42 R176). -/
def wShutdownRule (data : Byte) (c : Controller) : Option Controller :=
  if data.toNat < 2 then some { c with shutdown := knownReg data } else none

/-- W.DISPLAYTEST: TEST <- data, legal 0 or 1; no other register changes (42 R177). -/
def wDisplayTestRule (data : Byte) (c : Controller) : Option Controller :=
  if data.toNat < 2 then some { c with test := knownReg data } else none

/-- A reserved opcode: no behaviour is given, the whole controller becomes unknown (30_encoding R85, 42 R178). -/
def reservedRule (_data : Byte) (_c : Controller) : Option Controller := none

/-- The wire-word rule selected by `opcode` (42 R162): all eight bits are compared (30_encoding R82). -/
def wireRule (opcode : Byte) : Byte → Controller → Option Controller :=
  match opcode.toNat with
  | 0 => wNoopRule
  | 1 => wDigit0Rule
  | 2 => wDigit1Rule
  | 3 => wDigit2Rule
  | 4 => wDigit3Rule
  | 5 => wDigit4Rule
  | 6 => wDigit5Rule
  | 7 => wDigit6Rule
  | 8 => wDigit7Rule
  | 9 => wDecodeModeRule
  | 10 => wIntensityRule
  | 11 => wScanLimitRule
  | 12 => wShutdownRule
  | 15 => wDisplayTestRule
  | _ => reservedRule

/-! ### The latch (42 R162) -/

/-- Controller `k` performs a rule: its registers take the rule's answer, or all become unknown where the rule has none
(42 R178). It then no longer owes a word. -/
def Receiver.perform (k : Position) (rule : Controller → Option Controller) (r : Receiver) : Receiver :=
  match rule r.controllers[k] with
  | some c => { r with controllers := r.controllers.set k c, latching := r.latching.erase k }
  | none => { r.forgetController k with latching := r.latching.erase k }

/-- The number whose bits these are, least significant first. -/
def natOfBits (bits : List ChainBit) : Nat :=
  match bits with
  | [] => 0
  | b :: rest => b.value.toNat + 2 * natOfBits rest

/-- The byte whose bits these are, bit 0 first. -/
def byteOfBits (bits : List ChainBit) : Byte := BitVec.ofNat 8 (natOfBits bits)

/-- All eight bits of a byte of the chain are known. -/
def knownByte (bits : List ChainBit) : Bool := bits.length == 8 && bits.all (fun b => b.known)

/-- CHAIN[16*k + 7 : 16*k], the opcode byte of controller k's word (42 R162). -/
def Receiver.opcodeBits (r : Receiver) (k : Position) : List ChainBit := (r.chain.drop (16 * k.val)).take 8

/-- CHAIN[16*k + 15 : 16*k + 8], the data byte of controller k's word (42 R162). -/
def Receiver.dataBits (r : Receiver) (k : Position) : List ChainBit := (r.chain.drop (16 * k.val + 8)).take 8

/-- The word W that controller k takes from the chain (42 R162), where it is known what the word does: the opcode is
known, and the data too unless the opcode is the no-op, which ignores its data (42 R164, 70 R228). DESIGN CHOICE: with
any other unknown data the whole controller becomes unknown (log 12). Safe. -/
def Receiver.latchedWord (r : Receiver) (k : Position) : Option WireWord :=
  if knownByte (r.opcodeBits k) && (knownByte (r.dataBits k) || byteOfBits (r.opcodeBits k) == 0) then
    some (packWire (byteOfBits (r.dataBits k)) (byteOfBits (r.opcodeBits k)))
  else none

/-- Controller `k` performs the word it has latched (42 R162, R178). -/
def Receiver.commit (k : Position) (r : Receiver) : Receiver :=
  match r.latchedWord k with
  | some w => r.perform k (wireRule (wireOpcode w) (wireData w))
  | none => r.perform k (reservedRule 0)

/-- A rising edge of LOAD: every controller performs the word of its own 16 bits of the chain, which the latch does not
change (42 R162). One controller's rule touches that controller alone, so the order does not show. -/
def Receiver.latch (r : Receiver) : Receiver :=
  positions.foldl (fun r k => r.commit k) { r with latching := positions }

/-! ### The shift (42 R161) -/

/-- A rising edge of CLK while LOAD is low: the chain takes `d` as its new bit 0 and loses its last bit (42 R161). -/
def Receiver.shift (d : ChainBit) (r : Receiver) : Receiver :=
  { r with chain := (d :: r.chain).take (16 * Config.numControllers) }

/-- The shift that takes the level of the DATA wire: a known bit, or a free value while DATA is not driven. -/
def Receiver.shiftWire (wire : Option Bool) (r : Receiver) : Receiver :=
  match wire with
  | some v => r.shift { value := v, known := true }
  | none => { r.shift { value := Config.freeBit r.fresh 0, known := false } with fresh := r.fresh + 1 }

end Sys2Proof.Machine
end

