-- ==== Sys2Proof/Machine/Ops.lean ====
section
/-!
DEFINITION. Machine/Ops: the named operations over the block's memory and pins (20_memory, 10_state): the byte spaces
STATUS and FRAME, PinMode and PinWrite with what the controllers see of them, the command pointer, and how a meaning
ends. The block has no exception to take and none to return from (60 R190, R195, R196).
-/

namespace Sys2Proof.Machine

/-! ### Byte spaces (20_memory R50, R51) -/

/-- What an address holds; an unlisted address holds 0x00 (for STATUS the spec's reset value, 10_state R37). -/
def Memory.read (m : Memory) (address : Nat) : Byte :=
  match m with
  | [] => 0x00
  | (a, v) :: rest => if address = a then v else Memory.read rest address

/-- Take every pair of an address out of the list. -/
def Memory.erase (m : Memory) (address : Nat) : Memory :=
  match m with
  | [] => []
  | (a, v) :: rest => if a = address then Memory.erase rest address else (a, v) :: Memory.erase rest address

/-- Put a pair before the first one with a greater address. -/
def Memory.insert (m : Memory) (address : Nat) (v : Byte) : Memory :=
  match m with
  | [] => [(address, v)]
  | (a, old) :: rest => if address < a then (address, v) :: (a, old) :: rest else (a, old) :: Memory.insert rest address v

/-- Put `v` at `address`; the 0x00 an unlisted address holds anyway is not listed. -/
def Memory.write (m : Memory) (address : Nat) (v : Byte) : Memory :=
  if v = 0x00 then m.erase address else (m.erase address).insert address v

/-- Every address is at least `low`, below `high` and above the one before it, and no listed byte is 0x00. -/
def Memory.canonical (low high : Nat) (m : Memory) : Bool :=
  match m with
  | [] => true
  | (a, v) :: rest => decide (low ≤ a) && decide (a < high) && decide (v ≠ 0x00) && Memory.canonical (a + 1) high rest

/-- The canonical form of a space of `size` bytes. -/
def Memory.wf (size : Nat) (m : Memory) : Bool := Memory.canonical 0 size m

/-- The number of bytes of STATUS, 8 x N (10_state R21). -/
def statusSize : Nat := 8 * Config.numControllers

/-- The number of bytes of FRAME, 2 x N (10_state R23). -/
def frameSize : Nat := 2 * Config.numControllers

/-- The STATUS address of (controller c, row r): c*8 + r (20_memory R50). -/
def statusAddress (c r : Nat) : Nat := c * 8 + r

/-- MemRead(i, 1): STATUS[i], defined for i below 8 x N (20_memory R50). -/
def statusRead (i : Nat) (s : State) : Except Fault Byte :=
  if i < statusSize then .ok (s.status.read i) else .error (.statusAddress i)

/-- MemWrite(i, 1, v): STATUS[i] <- v, defined for i below 8 x N (20_memory R50). -/
def statusWrite (i : Nat) (v : Byte) (s : State) : Except Fault State :=
  if i < statusSize then .ok { s with status := s.status.write i v } else .error (.statusAddress i)

/-- FRAME[i], defined for i below 2 x N (20_memory R51). -/
def frameRead (i : Nat) (s : State) : Except Fault Byte :=
  if i < frameSize then .ok (s.frame.read i) else .error (.frameAddress i)

/-- FRAME[i] <- v, defined for i below 2 x N (20_memory R51). -/
def frameWrite (i : Nat) (v : Byte) (s : State) : Except Fault State :=
  if i < frameSize then .ok { s with frame := s.frame.write i v } else .error (.frameAddress i)

/-! ### Pins and wires (10_state R24 to R28) -/

/-- The pin of a line. -/
def Pins.get (ps : Pins) (p : Line) : Pin :=
  match p with
  | .data => ps.data
  | .clk => ps.clk
  | .load => ps.load

/-- Replace the pin of a line. -/
def Pins.set (ps : Pins) (p : Line) (pin : Pin) : Pins :=
  match p with
  | .data => { ps with data := pin }
  | .clk => { ps with clk := pin }
  | .load => { ps with load := pin }

/-- WIRE[p]: LEVEL[p] while the block drives the pin, unknown (`none`) while it does not (10_state R26). -/
def Pins.wire (ps : Pins) (p : Line) : Option Bool :=
  match (ps.get p).dir with
  | .output => some (ps.get p).level
  | .input => none

/-- What a PinWrite does to a wire (10_state R28): an edge, no edge, or an edge nobody can know of because the wire is
not driven. -/
inductive Edge where
  | rising
  | falling
  | quiet
  | unknown
  deriving DecidableEq, Repr

/-- The edge a PinWrite(p, v) makes: rising when the wire was 0 and v is 1, falling when it was 1 and v is 0; a write of
the level already present is no edge (10_state R28). -/
def Pins.edge (ps : Pins) (p : Line) (v : Bool) : Edge :=
  match ps.wire p, v with
  | some false, true => .rising
  | some true, false => .falling
  | some false, false => .quiet
  | some true, true => .quiet
  | none, _ => .unknown

/-- A CLK edge at the receiver: a rising edge shifts while LOAD is low (42 R161) and leaves CHAIN unknown otherwise
(42 R180; log 10); the falling edge does nothing; an edge that may or may not have happened leaves CHAIN unknown. -/
def Receiver.onClkEdge (ps : Pins) (edge : Edge) (r : Receiver) : Receiver :=
  match edge with
  | .rising => if ps.wire .load = some false then r.shiftWire (ps.wire .data) else r.forgetChain
  | .unknown => r.forgetChain
  | .falling => r
  | .quiet => r

/-- A LOAD edge at the receiver: a rising edge latches (42 R162), a falling edge does nothing to SHADOW, an edge that
may or may not have happened leaves SHADOW unknown (42 R181; log 11). -/
def Receiver.onLoadEdge (edge : Edge) (r : Receiver) : Receiver :=
  match edge with
  | .rising => r.latch
  | .unknown => r.forgetShadow
  | .falling => r
  | .quiet => r

/-- What the controllers do at a PinWrite(p, v), `ps` being the pins before it: a change of DATA does nothing by itself
(42 R161). -/
def Receiver.onWrite (ps : Pins) (p : Line) (v : Bool) (r : Receiver) : Receiver :=
  match p with
  | .data => r
  | .clk => r.onClkEdge ps (ps.edge .clk v)
  | .load => r.onLoadEdge (ps.edge .load v)

/-- What the controllers may see of a pin that was not driven until now: its wire was unknown, so edges of CLK may have
shifted and edges of LOAD may have latched (42 R181; log 11). DEDUCED. A pin that is already an output makes no edge. -/
def Receiver.onMode (ps : Pins) (p : Line) (r : Receiver) : Receiver :=
  match (ps.get p).dir, p with
  | .output, _ => r
  | .input, .data => r
  | .input, .clk => r.forgetChain
  | .input, .load => r.forgetShadow

/-- PinMode(p, output): DIR[p] <- output, LEVEL[p] unchanged, the event recorded (10_state R27). -/
def pinMode (p : Line) (s : State) : State :=
  { s with
    pins := s.pins.set p { s.pins.get p with dir := .output }
    events := .mode p :: s.events
    receiver := s.receiver.onMode s.pins p }

/-- PinWrite(p, v): LEVEL[p] <- v whatever it was and whatever DIR[p] is, the event recorded, and the controllers see
the wires as they stand (10_state R28). -/
def pinWrite (p : Line) (v : Bool) (s : State) : State :=
  { s with
    pins := s.pins.set p { s.pins.get p with level := v }
    events := .write p v :: s.events
    receiver := s.receiver.onWrite s.pins p v }

/-- TRACE: the pin events since reset, oldest first (10_state R29). -/
def State.trace (s : State) : List PinEvent := s.events.reverse

/-! ### MODE and CP (10_state R30, R33) -/

/-- MODE[c] <- m. -/
def setMode (c : Position) (m : Mode) (s : State) : State := { s with mode := s.mode.set c m }

/-- Some MODE[c] is Uninit (70 R223). -/
def State.anyUninit (s : State) : Bool := s.mode.toList.any (fun m => m == .uninit)

/-- Every command advances CP by exactly one when it completes (10_state R33). -/
def State.advance (s : State) : State := { s with cp := s.cp + 1 }

/-! ### How a meaning ends (60 R197) -/

/-- A command other than `initialize` has no meaning while some MODE[c] is Uninit (70 R223); this is decided before its
operands are looked at (60 R197; log 13). -/
def whenActive (s : State) (body : Host.Outcome State Fault Refusal) : Host.Outcome State Fault Refusal :=
  if s.anyUninit then .refused .uninitialised else body

/-- The end of a command: CP advances; an access outside a space would be a fault. -/
def finish (result : Except Fault State) : Host.Outcome State Fault Refusal :=
  match result with
  | .ok s => .next s.advance
  | .error f => .fault f

/-- The silent no-op of an invalid operand or an illegal word: only CP advances (41 R130, 30_encoding R92). -/
def silent (s : State) : Host.Outcome State Fault Refusal := .next s.advance

/-- Controller `k` performs a wire-word rule (42 R162). CP does not move: it indexes the host's commands. -/
def performWire (k : Position) (rule : Controller → Option Controller) (s : State) : Host.Outcome State Fault Refusal :=
  .next { s with receiver := s.receiver.perform k rule }

/-! ### Fetch -/

/-- The next command word of the host's sequence, none at its end (10_state R33, 70 R233). -/
def fetchCommand (s : State) : Option CmdWord := s.program[s.cp]?

/-- The wire word controller `k` has latched, decoded at its position; none where the word is reserved or unknown. -/
def fetchWire (k : Position) (s : State) : Option Instr :=
  match s.receiver.latchedWord k with
  | some w => (decode (.wire k w)).toOption
  | none => none

end Sys2Proof.Machine
end

