-- ==== Sys2Proof/Machine/Operands.lean ====
section
/-!
DEFINITION. Machine/Operands: the range checks of the commands' integer operands (41 R130, R145 item 1) and the values
computed from them (41 R145 items 3 to 6).
-/

namespace Sys2Proof.Machine

/-- The check 0 <= x and x < bound on a signed integer, exact (41 R130, R145): the index when it holds. -/
def checked (bound : Nat) (x : Int) : Option (Fin bound) :=
  if h : 0 ≤ x ∧ x < bound then some ⟨x.toNat, by omega⟩ else none

/-- The controller index check IV1: 0 <= c < N (41 R130, 60 R191). -/
def controllerOf (c : Int) : Option Position := checked Config.numControllers c

/-- The byte of a checked integer, sent without scaling (30_encoding R84). -/
def dataByte (n : Nat) : Byte := BitVec.ofNat 8 n

/-- The wire opcode of row r: r + 1 (30_encoding R83). -/
def rowOpcode (r : Nat) : Byte := BitVec.ofNat 8 (r + 1)

/-- The column mask 1 << (7 - column) (41 R142, R145). -/
def columnMask (column : Fin 8) : Byte := (1 : Byte) <<< (7 - column.val)

/-- The row byte with one LED set or cleared: OR with the mask, or AND with its complement (41 R142). -/
def ledByte (column : Fin 8) (state : Bool) (old : Byte) : Byte :=
  if state then old ||| columnMask column else old &&& ~~~ columnMask column

/-- The data of the shutdown register: `enabled = true` sends 0 (41 R133, 90 C1). -/
def shutdownData (enabled : Bool) : Byte := if enabled then 0 else 1

/-- MODE after `shutdown` (41 R133, 10_state R30). -/
def shutdownMode (enabled : Bool) : Mode := if enabled then .activeShutdown else .activeOn

/-- The data of the display-test register: `enabled = true` sends 1 (41 R144). -/
def testData (enabled : Bool) : Byte := if enabled then 1 else 0

end Sys2Proof.Machine
end

