-- ==== Sys2Proof/Machine/Transport.lean ====
section
/-!
DEFINITION. Machine/Transport: the Serial Transport (40_serial_transport): the operations writeBit, writeByte and
transmit, and the three raw transport commands.
-/

namespace Sys2Proof.Machine

/-- `writeBit(value)`: DATA to the value, then CLK high, then CLK low (40 R111). -/
def bitOut (value : Bool) (s : State) : State :=
  pinWrite .clk false (pinWrite .clk true (pinWrite .data value s))

/-- `writeByte(byte)`: eight bits, bit 7 first (40 R112). -/
def byteOut (byte : Byte) (s : State) : State :=
  [7, 6, 5, 4, 3, 2, 1, 0].foldl (fun s i => bitOut (byte.getLsbD i) s) s

/-- The zeroing of all 2 x N frame bytes (40 R114). -/
def zeroFrame (s : State) : Except Fault State :=
  (List.range frameSize).foldlM (fun s i => frameWrite i 0x00 s) s

/-- The frame for controller c: zero but for opcode at 2*c and data at 2*c + 1 (40 R114, 20_memory R51). -/
def buildFrame (c : Nat) (opcode data : Byte) (s : State) : Except Fault State := do
  let s ← zeroFrame s
  let s ← frameWrite (2 * c) opcode s
  frameWrite (2 * c + 1) data s

/-- Send one byte of the frame. -/
def frameByteOut (s : State) (i : Nat) : Except Fault State := do
  let b ← frameRead i s
  pure (byteOut b s)

/-- `transmit(c, opcode, data)`: build the frame, LOAD low, all bytes in descending order of index, LOAD high
(40 R114). The operands are not checked here (40 R113). -/
def transmitFrame (c : Nat) (opcode data : Byte) (s : State) : Except Fault State := do
  let s ← buildFrame c opcode data s
  let s ← (List.range frameSize).reverse.foldlM frameByteOut (pinWrite .load false s)
  pure (pinWrite .load true s)

/-- WRITEBIT (40 R111). -/
def execWriteBit (value : Bool) (s : State) : Host.Outcome State Fault Refusal :=
  whenActive s (finish (.ok (bitOut value s)))

/-- WRITEBYTE (40 R112). -/
def execWriteByte (byte : Byte) (s : State) : Host.Outcome State Fault Refusal :=
  whenActive s (finish (.ok (byteOut byte s)))

/-- TRANSMIT, the raw command (40 R114): refused for an index outside [0,N), which would index FRAME outside its bounds
(40 R113, 93 U2; log 14); opcode and data go out as they are. -/
def execTransmit (controllerIndex : Int) (opcode data : Byte) (s : State) : Host.Outcome State Fault Refusal :=
  whenActive s
    (match controllerOf controllerIndex with
     | some c => finish (transmitFrame c.val opcode data s)
     | none => .refused (.transmitIndex controllerIndex))

end Sys2Proof.Machine
end

