-- ==== Sys2Proof/Machine/Manager.lean ====
section
/-!
DEFINITION. Machine/Manager: the Display State Manager (41_display_state_manager): its eight commands. Every command
checks its operands before any effect; an invalid one is a silent no-op (41 R130).
-/

namespace Sys2Proof.Machine

/-- One row of `clearDisplay`: the STATUS byte, then at once its transmission (41 R140). -/
def clearRow (c : Nat) (s : State) (r : Nat) : Except Fault State := do
  let s ← statusWrite (statusAddress c r) 0x00 s
  transmitFrame c (rowOpcode r) 0x00 s

/-- `clearDisplay(c)` with a valid index: rows 0 to 7 in ascending order (41 R140). -/
def clearRows (c : Nat) (s : State) : Except Fault State :=
  [0, 1, 2, 3, 4, 5, 6, 7].foldlM (clearRow c) s

/-- The six steps of `initialize` for one controller, shutdown released last (41 R131, R132). -/
def initController (s : State) (c : Position) : Except Fault State := do
  let s ← transmitFrame c.val 15 0 s
  let s ← transmitFrame c.val 11 7 s
  let s ← transmitFrame c.val 9 Config.decodeOff s
  let s ← clearRows c.val s
  let s ← transmitFrame c.val 10 (dataByte Config.initIntensity.val) s
  let s ← transmitFrame c.val 12 1 s
  pure (setMode c .activeOn s)

/-- The pin configuration of `initialize`: DATA, CLK, LOAD as outputs, then LOAD high (41 R131). -/
def configurePins (s : State) : State :=
  pinWrite .load true (pinMode .load (pinMode .clk (pinMode .data s)))

/-- INITIALIZE (41 R131): valid in every state, also again (70 R225). -/
def execInitialise (s : State) : Host.Outcome State Fault Refusal :=
  finish (positions.foldlM initController (configurePins s))

/-- SHUTDOWN (41 R133). -/
def execShutdown (controllerIndex : Int) (enabled : Bool) (s : State) : Host.Outcome State Fault Refusal :=
  whenActive s
    (match controllerOf controllerIndex with
     | some c => finish ((transmitFrame c.val 12 (shutdownData enabled) s).map (setMode c (shutdownMode enabled)))
     | none => silent s)

/-- SETINTENSITY (41 R134). -/
def execSetIntensity (controllerIndex level : Int) (s : State) : Host.Outcome State Fault Refusal :=
  whenActive s
    (match controllerOf controllerIndex, checked 16 level with
     | some c, some l => finish (transmitFrame c.val 10 (dataByte l.val) s)
     | _, _ => silent s)

/-- SETSCANLIMIT (41 R135). -/
def execSetScanLimit (controllerIndex limit : Int) (s : State) : Host.Outcome State Fault Refusal :=
  whenActive s
    (match controllerOf controllerIndex, checked 8 limit with
     | some c, some l => finish (transmitFrame c.val 11 (dataByte l.val) s)
     | _, _ => silent s)

/-- SETDECODEMODE (41 R136): the mode is passed through unchecked. -/
def execSetDecodeMode (controllerIndex : Int) (mode : Byte) (s : State) : Host.Outcome State Fault Refusal :=
  whenActive s
    (match controllerOf controllerIndex with
     | some c => finish (transmitFrame c.val 9 mode s)
     | none => silent s)

/-- CLEARDISPLAY (41 R140). -/
def execClearDisplay (controllerIndex : Int) (s : State) : Host.Outcome State Fault Refusal :=
  whenActive s
    (match controllerOf controllerIndex with
     | some c => finish (clearRows c.val s)
     | none => silent s)

/-- `setLed` with valid operands: read the row byte, set or clear one bit, store it, transmit the whole byte, changed or
not (41 R142). -/
def ledWrite (c row : Nat) (column : Fin 8) (state : Bool) (s : State) : Except Fault State := do
  let old ← statusRead (statusAddress c row) s
  let s ← statusWrite (statusAddress c row) (ledByte column state old) s
  transmitFrame c (rowOpcode row) (ledByte column state old) s

/-- SETLED (41 R142). -/
def execSetLed (controllerIndex row column : Int) (state : Bool) (s : State) : Host.Outcome State Fault Refusal :=
  whenActive s
    (match controllerOf controllerIndex, checked 8 row, checked 8 column with
     | some c, some r, some col => finish (ledWrite c.val r.val col state s)
     | _, _, _ => silent s)

/-- DISPLAYTEST (41 R144): neither STATUS nor MODE is touched. -/
def execDisplayTest (controllerIndex : Int) (enabled : Bool) (s : State) : Host.Outcome State Fault Refusal :=
  whenActive s
    (match controllerOf controllerIndex with
     | some c => finish (transmitFrame c.val 15 (testData enabled) s)
     | none => silent s)

end Sys2Proof.Machine
end

