-- ==== Sys2Proof/Machine/WireWords.lean ====
section
/-!
DEFINITION. Machine/WireWords: the meanings of the fourteen wire words (42 R164 to R177), each performed by the
controller at position `k` of the frame (20_memory R52). What a LOAD edge inside a command does is the same rules, by
`Receiver.latch`.
-/

namespace Sys2Proof.Machine

/-- W.NOOP (42 R164). -/
def execWNoop (k : Position) (data : Byte) (s : State) : Host.Outcome State Fault Refusal :=
  performWire k (wNoopRule data) s

/-- W.DIGIT0 (42 R165). -/
def execWDigit0 (k : Position) (data : Byte) (s : State) : Host.Outcome State Fault Refusal :=
  performWire k (wDigit0Rule data) s

/-- W.DIGIT1 (42 R166). -/
def execWDigit1 (k : Position) (data : Byte) (s : State) : Host.Outcome State Fault Refusal :=
  performWire k (wDigit1Rule data) s

/-- W.DIGIT2 (42 R167). -/
def execWDigit2 (k : Position) (data : Byte) (s : State) : Host.Outcome State Fault Refusal :=
  performWire k (wDigit2Rule data) s

/-- W.DIGIT3 (42 R168). -/
def execWDigit3 (k : Position) (data : Byte) (s : State) : Host.Outcome State Fault Refusal :=
  performWire k (wDigit3Rule data) s

/-- W.DIGIT4 (42 R169). -/
def execWDigit4 (k : Position) (data : Byte) (s : State) : Host.Outcome State Fault Refusal :=
  performWire k (wDigit4Rule data) s

/-- W.DIGIT5 (42 R170). -/
def execWDigit5 (k : Position) (data : Byte) (s : State) : Host.Outcome State Fault Refusal :=
  performWire k (wDigit5Rule data) s

/-- W.DIGIT6 (42 R171). -/
def execWDigit6 (k : Position) (data : Byte) (s : State) : Host.Outcome State Fault Refusal :=
  performWire k (wDigit6Rule data) s

/-- W.DIGIT7 (42 R172). -/
def execWDigit7 (k : Position) (data : Byte) (s : State) : Host.Outcome State Fault Refusal :=
  performWire k (wDigit7Rule data) s

/-- W.DECODEMODE (42 R173). -/
def execWDecodeMode (k : Position) (data : Byte) (s : State) : Host.Outcome State Fault Refusal :=
  performWire k (wDecodeModeRule data) s

/-- W.INTENSITY (42 R174; illegal data R178). -/
def execWIntensity (k : Position) (data : Byte) (s : State) : Host.Outcome State Fault Refusal :=
  performWire k (wIntensityRule data) s

/-- W.SCANLIMIT (42 R175; illegal data R178). -/
def execWScanLimit (k : Position) (data : Byte) (s : State) : Host.Outcome State Fault Refusal :=
  performWire k (wScanLimitRule data) s

/-- W.SHUTDOWN (42 R176; illegal data R178). -/
def execWShutdown (k : Position) (data : Byte) (s : State) : Host.Outcome State Fault Refusal :=
  performWire k (wShutdownRule data) s

/-- W.DISPLAYTEST (42 R177; illegal data R178). -/
def execWDisplayTest (k : Position) (data : Byte) (s : State) : Host.Outcome State Fault Refusal :=
  performWire k (wDisplayTestRule data) s

end Sys2Proof.Machine
end

