-- ==== Sys2Proof/Machine/Dispatch.lean ====
section
/-!
DEFINITION. Machine/Dispatch: one arm per instruction.
-/

namespace Sys2Proof.Machine

def exec (i : Instr) (s : State) : Host.Outcome State Fault Refusal :=
  match i with
  | .writeBit value => Sys2Proof.Machine.execWriteBit value s
  | .writeByte byte => Sys2Proof.Machine.execWriteByte byte s
  | .transmit c opcode data => Sys2Proof.Machine.execTransmit c opcode data s
  | .initialise => Sys2Proof.Machine.execInitialise s
  | .shutdown c enabled => Sys2Proof.Machine.execShutdown c enabled s
  | .setIntensity c level => Sys2Proof.Machine.execSetIntensity c level s
  | .setScanLimit c limit => Sys2Proof.Machine.execSetScanLimit c limit s
  | .setDecodeMode c mode => Sys2Proof.Machine.execSetDecodeMode c mode s
  | .clearDisplay c => Sys2Proof.Machine.execClearDisplay c s
  | .setLed c row column state => Sys2Proof.Machine.execSetLed c row column state s
  | .displayTest c enabled => Sys2Proof.Machine.execDisplayTest c enabled s
  | .wNoop k data => Sys2Proof.Machine.execWNoop k data s
  | .wDigit0 k data => Sys2Proof.Machine.execWDigit0 k data s
  | .wDigit1 k data => Sys2Proof.Machine.execWDigit1 k data s
  | .wDigit2 k data => Sys2Proof.Machine.execWDigit2 k data s
  | .wDigit3 k data => Sys2Proof.Machine.execWDigit3 k data s
  | .wDigit4 k data => Sys2Proof.Machine.execWDigit4 k data s
  | .wDigit5 k data => Sys2Proof.Machine.execWDigit5 k data s
  | .wDigit6 k data => Sys2Proof.Machine.execWDigit6 k data s
  | .wDigit7 k data => Sys2Proof.Machine.execWDigit7 k data s
  | .wDecodeMode k data => Sys2Proof.Machine.execWDecodeMode k data s
  | .wIntensity k data => Sys2Proof.Machine.execWIntensity k data s
  | .wScanLimit k data => Sys2Proof.Machine.execWScanLimit k data s
  | .wShutdown k data => Sys2Proof.Machine.execWShutdown k data s
  | .wDisplayTest k data => Sys2Proof.Machine.execWDisplayTest k data s

end Sys2Proof.Machine
end

