-- ==== Sys2Proof/Machine/Step.lean ====
section
/-!
DEFINITION. Machine/Step: one step of the machine, and how an instruction is placed where the next step runs it.
-/

namespace Sys2Proof.Machine

/-- One step. While a controller still owes a word of a LOAD edge, it performs it (42 R162; a word that is reserved or
unknown makes it unknown, R178). Otherwise the block takes the next command of the host (10_state R33): a command runs
to completion in this one step (10_state R34), an illegal word is ignored and CP advances (30_encoding R92), and at the
end of the host's sequence the block is idle and nothing changes (70 R233; log 2). -/
def step (s : State) : Host.Outcome State Fault Refusal :=
  match s.receiver.latching with
  | k :: _ =>
    match fetchWire k s with
    | some i => exec i s
    | none => performWire k (reservedRule 0) s
  | [] =>
    match fetchCommand s with
    | some w =>
      match decode (.command w) with
      | .ok i => exec i s
      | .error _ => silent s
    | none => .next s

/-- The host's sequence with `w` at index `n`; a sequence that was shorter is filled with the illegal word 0. -/
def placeCommand (program : List CmdWord) (n : Nat) (w : CmdWord) : List CmdWord :=
  match program, n with
  | [], 0 => [w]
  | [], n + 1 => 0 :: placeCommand [] n w
  | _ :: rest, 0 => w :: rest
  | first :: rest, n + 1 => first :: placeCommand rest n w

/-- Bit `i` of a word that was clocked in whole. -/
def chainBitOf (w : Nat) (i : Nat) : ChainBit := { value := w.testBit i, known := true }

/-- The state whose next step runs the given instruction (log 1, log 16). A row of at most 16 bits is a wire word: it
stands in CHAIN[15:0] and controller 0 still owes it. Any other is a command word: it stands at CP in the host's
sequence, and no controller owes a word. -/
def State.withFetchWord (s : State) (nbits w : Nat) : State :=
  if nbits ≤ 16 then
    { s with
      receiver :=
        { s.receiver with
          chain := (List.range 16).map (chainBitOf w) ++ s.receiver.chain.drop 16
          latching := [0] } }
  else
    { s with
      program := placeCommand s.program s.cp (BitVec.ofNat 32 w)
      receiver := { s.receiver with latching := [] } }

end Sys2Proof.Machine
end

