-- ==== Sys2Proof/Machine/Light.lean ====
section
/-!
DEFINITION. Machine/Light: what a controller shows, the lit/dark function of 42 R179. INTENSITY does not enter it, and
no brightness is given (42 R174, 93 U13). It says what the registers say, not that any LED is physically lit (70 R233).
-/

namespace Sys2Proof.Machine

/-- The answer of the lit/dark function (42 R179): lit, dark, unknown because a register it needs is unknown (case 1), or
unspecified because the source says nothing (cases 3 and 5; 93 U6, U11; log 18). -/
inductive Light where
  | lit
  | dark
  | unknown
  | unspecified
  deriving DecidableEq, Repr

/-- Bit `7 - col` of a row byte (10_state R21, 20_memory R56). -/
def columnBit (row : Byte) (col : Fin 8) : Bool := row.getLsbD (7 - col.val)

/-- Case 7 of R179: the row register's bit. -/
def litByDigit (c : Controller) (r col : Fin 8) : Light :=
  if !c.digit[r].known then .unknown
  else if columnBit c.digit[r].value col then .lit
  else .dark

/-- Case 6 of R179: a row above SCANLIMIT is dark. -/
def litByScan (c : Controller) (r col : Fin 8) : Light :=
  if !c.scanLimit.known then .unknown
  else if c.scanLimit.value.toNat < r.val then .dark
  else litByDigit c r col

/-- Case 5 of R179: with DECODE not 0x00 the result is unspecified. -/
def litByDecode (c : Controller) (r col : Fin 8) : Light :=
  if !c.decode.known then .unknown
  else if c.decode.value ≠ Config.decodeOff then .unspecified
  else litByScan c r col

/-- `lit(k, r, col)` on one controller's registers, the seven cases of R179 in order: a case whose registers are unknown
answers unknown (log 18). -/
def Controller.light (c : Controller) (r col : Fin 8) : Light :=
  if !c.test.known || !c.shutdown.known then .unknown
  else if c.test.value = 1 ∧ c.shutdown.value = 1 then .lit
  else if c.test.value = 1 ∧ c.shutdown.value = 0 then .unspecified
  else if c.shutdown.value = 0 then .dark
  else litByDecode c r col

/-- `lit(k, r, col)` (42 R179). The logical display is these 2 x 64 values. -/
def State.light (s : State) (k : Position) (r col : Fin 8) : Light := s.receiver.controllers[k].light r col

end Sys2Proof.Machine
end

