-- ==== Sys2Proof/Machine/Listing.lean ====
section
/-!
DEFINITION. Machine/Listing: the textual form of the instructions: the call notation of a command (30_encoding R95) and
the listing form of a wire word (30_encoding R96).
-/

namespace Sys2Proof.Machine

/-- Booleans are written `true` and `false` (R95). -/
def boolText (b : Bool) : String := if b then "true" else "false"

/-- Integers in decimal (R95). -/
def intText (x : Int) : String := toString x

/-- Bytes of a command's operands, in decimal (R95). -/
def byteText (b : Byte) : String := toString b.toNat

/-- One hexadecimal digit. -/
def hexDigit (n : Nat) : String := String.singleton (Nat.digitChar n).toUpper

/-- The data byte of a listed wire word, with the prefix 0x (R95, R96). -/
def hexText (b : Byte) : String := "0x" ++ hexDigit (b.toNat / 16) ++ hexDigit (b.toNat % 16)

/-- An operation's name with its operands in parentheses, separated by commas (R95). -/
def callText (name : String) (operands : List String) : String := name ++ "(" ++ String.intercalate ", " operands ++ ")"

/-- The text of an instruction (R95, R96). -/
def instrText (i : Instr) : String :=
  match i with
  | .writeBit value => callText "writeBit" [boolText value]
  | .writeByte byte => callText "writeByte" [byteText byte]
  | .transmit c opcode data => callText "transmit" [intText c, byteText opcode, byteText data]
  | .initialise => callText "initialize" []
  | .shutdown c enabled => callText "shutdown" [intText c, boolText enabled]
  | .setIntensity c level => callText "setIntensity" [intText c, intText level]
  | .setScanLimit c limit => callText "setScanLimit" [intText c, intText limit]
  | .setDecodeMode c mode => callText "setDecodeMode" [intText c, byteText mode]
  | .clearDisplay c => callText "clearDisplay" [intText c]
  | .setLed c row column state => callText "setLed" [intText c, intText row, intText column, boolText state]
  | .displayTest c enabled => callText "displayTest" [intText c, boolText enabled]
  | .wNoop _ data => "W.NOOP " ++ hexText data
  | .wDigit0 _ data => "W.DIGIT0 " ++ hexText data
  | .wDigit1 _ data => "W.DIGIT1 " ++ hexText data
  | .wDigit2 _ data => "W.DIGIT2 " ++ hexText data
  | .wDigit3 _ data => "W.DIGIT3 " ++ hexText data
  | .wDigit4 _ data => "W.DIGIT4 " ++ hexText data
  | .wDigit5 _ data => "W.DIGIT5 " ++ hexText data
  | .wDigit6 _ data => "W.DIGIT6 " ++ hexText data
  | .wDigit7 _ data => "W.DIGIT7 " ++ hexText data
  | .wDecodeMode _ data => "W.DECODEMODE " ++ hexText data
  | .wIntensity _ data => "W.INTENSITY " ++ hexText data
  | .wScanLimit _ data => "W.SCANLIMIT " ++ hexText data
  | .wShutdown _ data => "W.SHUTDOWN " ++ hexText data
  | .wDisplayTest _ data => "W.DISPLAYTEST " ++ hexText data

end Sys2Proof.Machine
end

