-- ==== Sys2Proof/Machine/WireBytes.lean ====
section
/-!
DEFINITION. Machine/WireBytes: the function `WireBytes` of 40 R116, which reads the bytes a stretch of TRACE carries.
-/

namespace Sys2Proof.Machine

/-- Replay a stretch of TRACE on the levels of DATA and CLK: one bit, the level of DATA, at every write of CLK that is a
rising edge (40 R116). -/
def wireBits (data clk : Bool) (stretch : List PinEvent) : List Bool :=
  match stretch with
  | [] => []
  | .write .data v :: rest => wireBits v clk rest
  | .write .clk true :: rest => if clk then wireBits data true rest else data :: wireBits data true rest
  | .write .clk false :: rest => wireBits data false rest
  | .write .load _ :: rest => wireBits data clk rest
  | .mode _ :: rest => wireBits data clk rest

/-- A byte from eight bits, the first one bit 7 (40 R116). -/
def byteFromBits (b7 b6 b5 b4 b3 b2 b1 b0 : Bool) : Byte :=
  BitVec.ofBool b7 ++ BitVec.ofBool b6 ++ BitVec.ofBool b5 ++ BitVec.ofBool b4 ++ BitVec.ofBool b3 ++
    BitVec.ofBool b2 ++ BitVec.ofBool b1 ++ BitVec.ofBool b0

/-- Group the recorded bits in eights in order of arrival; a last group of fewer than eight is no byte. -/
def groupBytes (bits : List Bool) : List Byte :=
  match bits with
  | b7 :: b6 :: b5 :: b4 :: b3 :: b2 :: b1 :: b0 :: rest => byteFromBits b7 b6 b5 b4 b3 b2 b1 b0 :: groupBytes rest
  | _ => []

/-- `WireBytes` of a stretch that starts with these levels of DATA and CLK (40 R116). -/
def wireBytes (data clk : Bool) (stretch : List PinEvent) : List Byte := groupBytes (wireBits data clk stretch)

end Sys2Proof.Machine
end

