-- ==== Sys2Proof/Safety.lean ====
section
/-!
DEFINITION. Safety: the terms the claims use: what a transmission looks like on the pins and leaves in the block, which
states are ready for a command, and the invariants. Nothing here is used by the machine.
-/

namespace Sys2Proof.Machine

/-! ### Events on the pins -/

/-- The events of one bit: DATA, then CLK high, then CLK low (40 R111). -/
def bitEvents (v : Bool) : List PinEvent := [.write .data v, .write .clk true, .write .clk false]

/-- The events of one byte, bit 7 first (40 R112). -/
def byteEvents (b : Byte) : List PinEvent :=
  bitEvents (b.getLsbD 7) ++ bitEvents (b.getLsbD 6) ++ bitEvents (b.getLsbD 5) ++ bitEvents (b.getLsbD 4) ++
    bitEvents (b.getLsbD 3) ++ bitEvents (b.getLsbD 2) ++ bitEvents (b.getLsbD 1) ++ bitEvents (b.getLsbD 0)

/-- The 2 x N = 4 bytes of a transmission to controller `c`, in the order they stand on the wire (40 R115). -/
def wireOrder (c : Position) (opcode data : Byte) : List Byte :=
  if c = 0 then [0x00, 0x00, data, opcode] else [data, opcode, 0x00, 0x00]

/-- The events of one transmission: LOAD low, the bytes, LOAD high (40 R114, R115, R117). -/
def frameEvents (c : Position) (opcode data : Byte) : List PinEvent :=
  [.write .load false] ++ (wireOrder c opcode data).flatMap byteEvents ++ [.write .load true]

/-- A register write: controller, opcode, data. -/
abbrev RegisterWrite := Position × Byte × Byte

/-- The events of transmissions made one after another. -/
def framesEvents (writes : List RegisterWrite) : List PinEvent :=
  writes.flatMap (fun w => frameEvents w.1 w.2.1 w.2.2)

/-- The thirteen register writes of `initialize` for one controller, in order (41 R131). -/
def initWrites (c : Position) : List RegisterWrite :=
  [(c, 15, 0), (c, 11, 7), (c, 9, 0), (c, 1, 0), (c, 2, 0), (c, 3, 0), (c, 4, 0), (c, 5, 0), (c, 6, 0), (c, 7, 0),
   (c, 8, 0), (c, 10, BitVec.ofNat 8 Config.initIntensity.val), (c, 12, 1)]

/-- The pin events with which `initialize` begins (41 R131). -/
def configureEvents : List PinEvent := [.mode .data, .mode .clk, .mode .load, .write .load true]

/-! ### Operands and states ready for a command -/

/-- A controller index in [0,N) (41 R130). -/
def InChain (c : Int) : Prop := 0 ≤ c ∧ c < Config.numControllers

/-- Every controller has been initialised (70 R223). -/
def Active (s : State) : Prop := ∀ c : Position, s.mode[c] ≠ .uninit

/-- The lines between two commands: all driven, CLK low, LOAD high (70 R233). -/
def LinesIdle (s : State) : Prop :=
  s.pins.data.dir = .output ∧ s.pins.clk = { level := false, dir := .output } ∧
    s.pins.load = { level := true, dir := .output }

/-- The lines are idle and no controller owes a word. -/
def Ready (s : State) : Prop := LinesIdle s ∧ s.receiver.latching = []

/-! ### What one transmission leaves in the block -/

/-- FRAME holds the frame for controller `c` (20_memory R51). -/
def FrameHolds (t : State) (c : Position) (opcode data : Byte) : Prop :=
  ∀ i, i < frameSize → t.frame.read i = if i = 2 * c.val then opcode else if i = 2 * c.val + 1 then data else 0x00

/-- The pins after a transmission to controller `c`: LOAD high, CLK low, DATA at bit 0 of FRAME[0]; no direction changes
(40 R114). -/
def PinsAfterFrame (s t : State) (c : Position) (opcode : Byte) : Prop :=
  t.pins.load = { s.pins.load with level := true } ∧ t.pins.clk = { s.pins.clk with level := false } ∧
    t.pins.data = { s.pins.data with level := if c = 0 then opcode.getLsbD 0 else false }

/-- The block after one transmission and nothing else: TRACE gained one frame, FRAME and the pins are as the frame leaves
them, CP advanced, the host's sequence is the same. STATUS and MODE are said apart. -/
def Transmitted (s t : State) (c : Position) (opcode data : Byte) : Prop :=
  t.trace = s.trace ++ frameEvents c opcode data ∧ FrameHolds t c opcode data ∧ PinsAfterFrame s t c opcode ∧
    t.cp = s.cp + 1 ∧ t.program = s.program

/-- Every byte of STATUS reads as before. -/
def SameStatus (s t : State) : Prop := ∀ a, t.status.read a = s.status.read a

/-- The controllers after one transmission to `c` whose word turned its registers into `after`: the others are as
before, and nothing is owed (42 R162, R163). -/
def Received (s t : State) (c : Position) (after : Controller) : Prop :=
  t.receiver.controllers = s.receiver.controllers.set c after ∧ t.receiver.latching = []

/-- Every register of a controller is unknown (42 R178). -/
def Controller.AllUnknown (c : Controller) : Prop :=
  (∀ r : Fin 8, c.digit[r].known = false) ∧ c.decode.known = false ∧ c.intensity.known = false ∧
    c.scanLimit.known = false ∧ c.shutdown.known = false ∧ c.test.known = false

/-- A controller right after `initialize` (41 R131): display test off, scan limit 7, no decode, all rows dark, the open
mid-level intensity, out of shutdown. -/
def initialisedController : Controller where
  digit := Vector.replicate 8 { value := 0x00, known := true }
  decode := { value := 0x00, known := true }
  intensity := { value := BitVec.ofNat 8 Config.initIntensity.val, known := true }
  scanLimit := { value := 0x07, known := true }
  shutdown := { value := 0x01, known := true }
  test := { value := 0x00, known := true }

/-! ### Commands and wire words -/

/-- The instruction is a command of level C (00_scope R3). -/
def isCommand (i : Instr) : Bool :=
  match encode i with
  | .command _ => true
  | .wire _ _ => false

/-- A raw `transmit` that keeps the STATUS mirror: its word is legal and writes no row register (10_state R22 condition b,
70 R229). Every other instruction of level C keeps it too. A wire word performed apart from a command need not. -/
def keepsMirror (i : Instr) : Bool :=
  match i with
  | .transmit _ opcode data =>
    opcode == 0 || opcode == 9 || (opcode == 10 && data.toNat < 16) || (opcode == 11 && data.toNat < 8) ||
      (opcode == 12 && data.toNat < 2) || (opcode == 15 && data.toNat < 2)
  | _ => isCommand i

/-! ### Invariants -/

/-- The shape of the state: both byte spaces in canonical form inside their bounds (20_memory R50, R51) and the chain
16 x N bits wide (10_state R35). -/
def Canonical (s : State) : Prop :=
  s.status.wf statusSize = true ∧ s.frame.wf frameSize = true ∧ s.receiver.chain.length = 16 * Config.numControllers

/-- Once some controller is initialised, the lines are idle between commands (70 R233). -/
def IdleBetweenCommands (s : State) : Prop := (∃ c : Position, s.mode[c] ≠ .uninit) → LinesIdle s

/-- The STATUS mirror (10_state R22): with every controller initialised, the lines idle and nothing owed, every row
register is known and holds the STATUS byte. -/
def Mirrors (s : State) : Prop :=
  Active s → Ready s ∧
    ∀ (c : Position) (r : Fin 8),
      s.receiver.controllers[c].digit[r] = { value := s.status.read (statusAddress c.val r.val), known := true }

/-- The next step does not run an instruction that may break the STATUS mirror. -/
def NextKeepsMirror (s : State) : Prop :=
  ∀ w i, fetchCommand s = some w → decodeCommand w = .ok i → keepsMirror i = true

/-- Two states whose block is the same; only what the controllers hold may differ (60 R192). -/
def SameBlock (s t : State) : Prop := { s with receiver := t.receiver } = t

/-- Two outcomes that the block cannot tell apart. -/
def SameOutcome (a b : Host.Outcome State Fault Refusal) : Prop :=
  match a, b with
  | .next s, .next t => SameBlock s t
  | .fault f, .fault g => f = g
  | .refused r, .refused q => r = q
  | _, _ => False

end Sys2Proof.Machine
end

