-- ==== Sys2Proof/Certificates/Slice0/Obligations.lean ====
section
/-!
DEFINITION. Certificates/Slice0/Obligations: the statements for the provers. A docstring names the rule a statement
formalises; where the rule is marked in the spec as the spec's own decision or derivation, it says so.
-/

open Sys2Proof Sys2Proof.Machine

/-! ### Encoding -/

/-- Decoding an encoded well-formed instruction of either level gives it back. CMD32 is the spec's own choice
(30_encoding R88 to R91 and R97, decision D3). -/
def Obligations.DecodeEncodeRoundTrip : Prop :=
  ∀ i : Instr, i.WellFormed → decode (encode i) = .ok i

/-- A word the decoder accepts has one meaning: the instruction it gives is well formed and encodes to that very word
(30_encoding R89 to R92, decision D3). -/
def Obligations.DecodedWordIsItsEncoding : Prop :=
  ∀ (e : Encoded) (i : Instr), decode e = .ok i → i.WellFormed ∧ encode i = e

/-- A command word is accepted exactly when it spells one of the eleven rows of the opcode map; every other word is
illegal (30_encoding R89 and R92, decisions D3 and D5). -/
def Obligations.CommandWordsAreTheElevenRows : Prop :=
  ∀ w : CmdWord, (∃ i, decodeCommand w = .ok i) ↔
    ∃ row ∈ ([(0x10000000, 0xFEFFFFFF), (0x20000000, 0xFFFFFF00), (0x30000000, 0xFF000000), (0x40000000, 0xFFFFFFFF),
      (0x50000000, 0xFE00FFFF), (0x60000000, 0xFF0000FF), (0x70000000, 0xFF0000FF), (0x80000000, 0xFF00FF00),
      (0x90000000, 0xFF00FFFF), (0xA0000000, 0xFE000000), (0xB0000000, 0xFE00FFFF)] : List (CmdWord × CmdWord)),
      w &&& row.2 = row.1

/-- A few words of the spec's own examples decode to what the spec says they are (30_encoding R97, and R80 with R82 for
the wire words). -/
def Obligations.SpecExampleWordsDecode : Prop :=
  decodeCommand 0xA1000001 = .ok (.setLed 0 0 1 true) ∧ decodeCommand 0x90FF0000 = .ok (.clearDisplay (-1)) ∧
    decodeCommand 0x30000A08 = .ok (.transmit 0 10 8) ∧ decodeCommand 0x200000A5 = .ok (.writeByte 0xA5) ∧
    decodeCommand 0x40000001 = .error .unusedFieldSet ∧ decodeCommand 0xA3000000 = .error .zeroFieldSet ∧
    decodeCommand 0xC0000000 = .error (.noSuchCommand 12) ∧ decodeWire 1 0x080A = .ok (.wIntensity 1 0x08) ∧
    decodeWire 0 0x008A = .error (.reservedOpcode 0x8A)

/-! ### The step -/

/-- A step runs the decoded instruction and adds nothing around it: the command word at CP when no controller owes a
word (10_state R33, decision D6; 30_encoding R97), else the wire word the first owing controller has latched. The second
clause is the model's own: that a controller can owe a word, and that a step serves it by `exec`, is the DESIGN CHOICE of
log 16. -/
def Obligations.StepRunsDecodedInstruction : Prop :=
  (∀ (s : State) (w : CmdWord) (i : Instr), s.receiver.latching = [] → fetchCommand s = some w →
      decode (.command w) = .ok i → step s = exec i s) ∧
    (∀ (s : State) (k : Position) (rest : List Position) (w : WireWord) (i : Instr), s.receiver.latching = k :: rest →
      s.receiver.latchedWord k = some w → decode (.wire k w) = .ok i → step s = exec i s)

/-- An illegal command word is ignored in every state, also before `initialize`: only CP advances (30_encoding R92,
decision D5; 70 R223). -/
def Obligations.IllegalCommandWordIsIgnored : Prop :=
  ∀ (s : State) (w : CmdWord) (e : Reject), s.receiver.latching = [] → fetchCommand s = some w →
    decodeCommand w = .error e → step s = .next { s with cp := s.cp + 1 }

/-- At the end of the host's sequence nothing changes: the model's choice, log 2 (70 R233 says that the run ends there
with the block idle). -/
def Obligations.StepIdlesAtTheEnd : Prop :=
  ∀ s : State, s.receiver.latching = [] → s.program.length ≤ s.cp → step s = .next s

/-- No step ends in a fault (60 R190). -/
def Obligations.StepNeverFaults : Prop :=
  ∀ (s : State) (f : Fault), step s ≠ .fault f

/-- The only refusals are those of 60 R197 (decisions D16, D20): a command other than `initialize` while some MODE is
Uninit, and a raw `transmit` whose index is out of range. -/
def Obligations.RefusalOnlyWhereTheSpecRefuses : Prop :=
  ∀ (i : Instr) (s : State) (r : Refusal), exec i s = .refused r →
    (r = .uninitialised ∧ isCommand i = true ∧ i ≠ .initialise ∧ ¬ Active s) ∨
      (∃ c opcode data, i = .transmit c opcode data ∧ Active s ∧ ¬ InChain c ∧
        r = .transmitIndex c)

/-- Before `initialize` every other command is refused, whatever its operands (70 R223, decision D16; log 13). -/
def Obligations.CommandBeforeInitialiseIsRefused : Prop :=
  ∀ (i : Instr) (s : State), isCommand i = true → i ≠ .initialise → ¬ Active s → exec i s = .refused .uninitialised

/-- A raw `transmit` with an index outside [0,N) is refused (40 R113, decision D20; log 14). -/
def Obligations.TransmitOutOfRangeIsRefused : Prop :=
  ∀ (c : Int) (opcode data : Byte) (s : State), Active s → ¬ InChain c →
    exec (.transmit c opcode data) s = .refused (.transmitIndex c)

/-- Every command that completes, valid or not, advances CP by exactly one and leaves the host's sequence; a wire word
does neither (10_state R33, decision D6). -/
def Obligations.CommandAdvancesCpByOne : Prop :=
  ∀ (i : Instr) (s t : State), exec i s = .next t →
    t.program = s.program ∧ t.cp = if isCommand i then s.cp + 1 else s.cp

/-- TRACE only ever grows (10_state R29, decision D29). -/
def Obligations.StepOnlyExtendsTrace : Prop :=
  ∀ s t : State, step s = .next t → ∃ gained, t.trace = s.trace ++ gained

/-! ### Invariants -/

/-- Every step keeps the shape of the state: STATUS and FRAME in canonical form inside their spaces, CHAIN 16 x N bits
wide (20_memory R50, R51; 42 R161 "width stays 16*N"). The canonical form is the model's choice (log 17). -/
def Obligations.StepKeepsCanonical : Prop :=
  ∀ s t : State, Canonical s → step s = .next t → Canonical t

/-- The reset state meets the three invariants (10_state R37; the canonical form is the model's choice, log 17). -/
def Obligations.ResetMeetsTheInvariants : Prop :=
  Canonical State.reset ∧ IdleBetweenCommands State.reset ∧ Mirrors State.reset

/-- Every step keeps the lines idle between commands once a controller is initialised: all driven, LOAD high, CLK low
(70 R233, decision D6; 40 R114 corner case 4). -/
def Obligations.StepKeepsIdleLines : Prop :=
  ∀ s t : State, IdleBetweenCommands s → step s = .next t → IdleBetweenCommands t

/-- Every step keeps the STATUS mirror, but for a raw `transmit` whose word writes a row register, is reserved or has
illegal data (10_state R22, derived there; 41 R147; 70 R229). The condition on reserved and illegal words is the model's
reading: R22 names opcodes 1 to 8 only, and R178 makes the registers unknown (log 23). -/
def Obligations.StepKeepsStatusMirror : Prop :=
  ∀ s t : State, Mirrors s → NextKeepsMirror s → step s = .next t → Mirrors t

/-- Nothing the block does depends on what the controllers hold: from two states with the same block, every instruction
has the same outcome on the block (60 R192). -/
def Obligations.BlockIsBlindToControllers : Prop :=
  ∀ (i : Instr) (s t : State), SameBlock s t → SameOutcome (exec i s) (exec i t)

/-! ### The Serial Transport -/

/-- `writeBit`: three events in order; DATA ends at the value, CLK low; nothing else of the block changes and no register
of a controller does. While a frame is being shifted the chain takes the bit; with CLK high at the start there is no
rising edge and the controllers see nothing (40 R111). -/
def Obligations.WriteBitDrivesDataThenPulsesClock : Prop :=
  ∀ (value : Bool) (s : State), Active s → ∃ t, exec (.writeBit value) s = .next t ∧
    t.trace = s.trace ++ [.write .data value, .write .clk true, .write .clk false] ∧
    t.pins = { s.pins with data := { s.pins.data with level := value }, clk := { s.pins.clk with level := false } } ∧
    SameStatus s t ∧ (∀ a, t.frame.read a = s.frame.read a) ∧ t.mode = s.mode ∧ t.cp = s.cp + 1 ∧
    t.program = s.program ∧ t.receiver.controllers = s.receiver.controllers ∧
    t.receiver.latching = s.receiver.latching ∧
    (s.pins.data.dir = .output → s.pins.clk = { level := false, dir := .output } →
      s.pins.load = { level := false, dir := .output } →
      t.receiver.chain = ({ value := value, known := true } :: s.receiver.chain).take (16 * Config.numControllers)) ∧
    (s.pins.clk = { level := true, dir := .output } → t.receiver = s.receiver)

/-- `writeByte`: the eight bits, bit 7 first, three events each; DATA ends at bit 0, CLK low (40 R112). -/
def Obligations.WriteByteSendsBitSevenFirst : Prop :=
  ∀ (byte : Byte) (s : State), Active s → ∃ t, exec (.writeByte byte) s = .next t ∧
    t.trace = s.trace ++ byteEvents byte ∧ (byteEvents byte).length = 24 ∧
    t.pins =
      { s.pins with data := { s.pins.data with level := byte.getLsbD 0 }, clk := { s.pins.clk with level := false } } ∧
    SameStatus s t ∧ (∀ a, t.frame.read a = s.frame.read a) ∧ t.mode = s.mode ∧ t.cp = s.cp + 1 ∧
    t.program = s.program ∧ t.receiver.controllers = s.receiver.controllers ∧
    t.receiver.latching = s.receiver.latching

/-- Raw `writeBit` and `writeByte` between commands leave every controller register alone, and the whole chain unknown
(42 R180, decision D24; 70 R230, derived there). -/
def Obligations.RawBitsLeaveRegistersAndForgetChain : Prop :=
  ∀ (s : State) (value : Bool) (byte : Byte), Active s → LinesIdle s →
    ∀ i ∈ [Instr.writeBit value, Instr.writeByte byte], ∃ t, exec i s = .next t ∧
      t.receiver.controllers = s.receiver.controllers ∧ t.receiver.latching = s.receiver.latching ∧
      t.receiver.chain.length = 16 * Config.numControllers ∧ (∀ b ∈ t.receiver.chain, b.known = false) ∧ LinesIdle t

/-- `transmit` with an index in range, any opcode and any data: FRAME is the frame, TRACE gains LOAD low, the 2 x N
bytes, LOAD high, 98 events for N = 2, and the pins end as the frame leaves them; STATUS and MODE are not touched
(40 R114). -/
def Obligations.TransmitSendsOneFrame : Prop :=
  ∀ (c : Position) (opcode data : Byte) (s : State), Active s → ∃ t, exec (.transmit c.val opcode data) s = .next t ∧
    Transmitted s t c opcode data ∧ (frameEvents c opcode data).length = 98 ∧ SameStatus s t ∧ t.mode = s.mode

/-- The stretch of TRACE a `transmit` produces with CLK low at its start carries exactly the four bytes of 40 R115, as
`WireBytes` reads them (40 R115 and R116, derived there). -/
def Obligations.TransmitWireBytes : Prop :=
  ∀ (c : Position) (opcode data : Byte) (s : State), Active s → s.pins.clk.level = false →
    ∃ t stretch, exec (.transmit c.val opcode data) s = .next t ∧ t.trace = s.trace ++ stretch ∧
      wireBytes s.pins.data.level s.pins.clk.level stretch =
        if c = 0 then [0x00, 0x00, data, opcode] else [data, opcode, 0x00, 0x00]

/-- After a `transmit` that begins with the lines idle every controller finds its own word in the chain; the addressed
one has performed the rule of the opcode, or is unknown where there is none; the others are as before (42 R163, derived
there; R162, R164, R178). -/
def Obligations.TransmitReachesOneController : Prop :=
  ∀ (c : Position) (opcode data : Byte) (s : State), Active s → LinesIdle s →
    ∃ t, exec (.transmit c.val opcode data) s = .next t ∧ t.receiver.latching = [] ∧
      (∀ k : Position, t.receiver.latchedWord k = some (if k = c then packWire data opcode else 0)) ∧
      (∀ k : Position, k ≠ c → t.receiver.controllers[k] = s.receiver.controllers[k]) ∧
      (match wireRule opcode data s.receiver.controllers[c] with
       | some after => t.receiver.controllers[c] = after
       | none => t.receiver.controllers[c].AllUnknown)

/-- A reserved opcode, or data outside the legal range of its register, leaves every register of the addressed
controller unknown, and only of that one (42 R178, decision D26; 30_encoding R85). -/
def Obligations.ReservedWordMakesControllerUnknown : Prop :=
  ∀ (c : Position) (opcode data : Byte) (s : State), Active s → LinesIdle s →
    (opcode = 13 ∨ opcode = 14 ∨ 16 ≤ opcode.toNat ∨ (opcode = 10 ∧ 16 ≤ data.toNat) ∨
      (opcode = 11 ∧ 8 ≤ data.toNat) ∨ (opcode = 12 ∧ 2 ≤ data.toNat) ∨ (opcode = 15 ∧ 2 ≤ data.toNat)) →
    ∃ t, exec (.transmit c.val opcode data) s = .next t ∧ t.receiver.controllers[c].AllUnknown ∧
      ∀ k : Position, k ≠ c → t.receiver.controllers[k] = s.receiver.controllers[k]

/-! ### The Display State Manager -/

/-- An invalid operand makes a command of the Display State Manager a silent no-op: everything but CP is exactly as it
was (60 R190; the checks are those of 41 R130 and 60 R191). -/
def Obligations.InvalidOperandIsSilentNoOp : Prop :=
  ∀ (s : State), Active s →
    (∀ (c : Int) (enabled : Bool), ¬ InChain c → exec (.shutdown c enabled) s = .next { s with cp := s.cp + 1 }) ∧
    (∀ c level : Int, ¬ (InChain c ∧ 0 ≤ level ∧ level < 16) →
      exec (.setIntensity c level) s = .next { s with cp := s.cp + 1 }) ∧
    (∀ c limit : Int, ¬ (InChain c ∧ 0 ≤ limit ∧ limit < 8) →
      exec (.setScanLimit c limit) s = .next { s with cp := s.cp + 1 }) ∧
    (∀ (c : Int) (mode : Byte), ¬ InChain c → exec (.setDecodeMode c mode) s = .next { s with cp := s.cp + 1 }) ∧
    (∀ c : Int, ¬ InChain c → exec (.clearDisplay c) s = .next { s with cp := s.cp + 1 }) ∧
    (∀ (c row column : Int) (state : Bool),
      ¬ (InChain c ∧ (0 ≤ row ∧ row < 8) ∧ 0 ≤ column ∧ column < 8) →
      exec (.setLed c row column state) s = .next { s with cp := s.cp + 1 }) ∧
    (∀ (c : Int) (enabled : Bool), ¬ InChain c → exec (.displayTest c enabled) s = .next { s with cp := s.cp + 1 })

/-- `setLed` with valid operands: one STATUS byte takes the row byte with the one bit set or cleared, that byte goes out
as one frame with opcode row + 1, changed or not, and the controller's row register takes it; every other STATUS byte,
MODE and every other register are as before (41 R142, with decision D18). -/
def Obligations.SetLedUpdatesStatusAndSendsRow : Prop :=
  ∀ (c : Position) (row column : Fin 8) (state : Bool) (s : State), Active s →
    ∃ t v, exec (.setLed c.val row.val column.val state) s = .next t ∧
      v = (if state then s.status.read (statusAddress c.val row.val) ||| ((1 : Byte) <<< (7 - column.val))
        else s.status.read (statusAddress c.val row.val) &&& ~~~ ((1 : Byte) <<< (7 - column.val))) ∧
      (∀ a, t.status.read a = if a = statusAddress c.val row.val then v else s.status.read a) ∧
      Transmitted s t c (BitVec.ofNat 8 (row.val + 1)) v ∧ t.mode = s.mode ∧
      (LinesIdle s → Received s t c
        { s.receiver.controllers[c] with
          digit := s.receiver.controllers[c].digit.set row { value := v, known := true } })

/-- The bit `setLed` writes is bit 7 - column and no other; setting and then clearing an LED restores the row byte
exactly when the LED was off before, and leaves the other seven bits in every case (41 R143). -/
def Obligations.SetLedWritesOneColumnBit : Prop :=
  ∀ (c : Position) (row column : Fin 8) (s : State), Active s →
    (∀ state, ∃ t, exec (.setLed c.val row.val column.val state) s = .next t ∧
      ∀ i, i < 8 → (t.status.read (statusAddress c.val row.val)).getLsbD i =
        if i = 7 - column.val then state else (s.status.read (statusAddress c.val row.val)).getLsbD i) ∧
    (∃ t u, exec (.setLed c.val row.val column.val true) s = .next t ∧
      exec (.setLed c.val row.val column.val false) t = .next u ∧
      (u.status.read (statusAddress c.val row.val) = s.status.read (statusAddress c.val row.val) ↔
        (s.status.read (statusAddress c.val row.val)).getLsbD (7 - column.val) = false) ∧
      ∀ i, i < 8 → i ≠ 7 - column.val → (u.status.read (statusAddress c.val row.val)).getLsbD i =
        (s.status.read (statusAddress c.val row.val)).getLsbD i)

/-- `clearDisplay` with a valid index: its eight STATUS bytes are zero and every other one is as before; eight frames go
out, rows in ascending order, and the controller's row registers are zero (41 R140, with decision D11). -/
def Obligations.ClearDisplayZeroesEveryRow : Prop :=
  ∀ (c : Position) (s : State), Active s → ∃ t, exec (.clearDisplay c.val) s = .next t ∧
    (∀ a, t.status.read a =
      if statusAddress c.val 0 ≤ a ∧ a < statusAddress c.val 0 + 8 then 0x00 else s.status.read a) ∧
    t.trace = s.trace ++
      framesEvents [(c, 1, 0), (c, 2, 0), (c, 3, 0), (c, 4, 0), (c, 5, 0), (c, 6, 0), (c, 7, 0), (c, 8, 0)] ∧
    FrameHolds t c 8 0 ∧ PinsAfterFrame s t c 8 ∧ t.mode = s.mode ∧ t.cp = s.cp + 1 ∧ t.program = s.program ∧
    (LinesIdle s → Received s t c
      { s.receiver.controllers[c] with digit := Vector.replicate 8 { value := 0x00, known := true } })

/-- `clearDisplay` affects one controller only: the STATUS rows of every other controller and all their registers are as
before, and each of its eight frames carries, in the place of every other controller, the no-op word 0x0000 (41 R141). -/
def Obligations.ClearDisplayLeavesOtherControllers : Prop :=
  ∀ (c : Position) (s : State), Active s → LinesIdle s → ∃ t, exec (.clearDisplay c.val) s = .next t ∧
    (∀ r : Fin 8, t.status.read (statusAddress c.val r.val) = 0x00) ∧
    (∀ k : Position, k ≠ c → ∀ r : Fin 8,
      t.status.read (statusAddress k.val r.val) = s.status.read (statusAddress k.val r.val)) ∧
    (∀ k : Position, k ≠ c → t.receiver.controllers[k] = s.receiver.controllers[k]) ∧
    (∃ writes : List RegisterWrite, t.trace = s.trace ++ framesEvents writes ∧ writes.length = 8 ∧
      ∀ w ∈ writes, ∀ k : Position, k ≠ c →
        (wireOrder w.1 w.2.1 w.2.2).reverse[2 * k.val]? = some 0x00 ∧
          (wireOrder w.1 w.2.1 w.2.2).reverse[2 * k.val + 1]? = some 0x00)

/-- `setIntensity`: a valid level goes out as one frame to register 10 and nothing else of the block changes; the
controller's intensity register takes it. An operand out of range sends nothing (41 R134). -/
def Obligations.SetIntensitySendsLevel : Prop :=
  (∀ (c : Position) (level : Fin 16) (s : State), Active s → ∃ t, exec (.setIntensity c.val level.val) s = .next t ∧
    Transmitted s t c 10 (BitVec.ofNat 8 level.val) ∧ SameStatus s t ∧ t.mode = s.mode ∧
    (LinesIdle s → Received s t c
      { s.receiver.controllers[c] with intensity := { value := BitVec.ofNat 8 level.val, known := true } })) ∧
  (∀ (c level : Int) (s : State), Active s → ¬ (InChain c ∧ 0 ≤ level ∧ level < 16) →
    exec (.setIntensity c level) s = .next { s with cp := s.cp + 1 })

/-- `setScanLimit`: a valid limit goes out as one frame to register 11 and nothing else of the block changes; the
controller's scan-limit register takes it, so that rows 0 to the limit are scanned and the others dark. An operand out of
range sends nothing (41 R135, with decision D27 for which rows are scanned). -/
def Obligations.SetScanLimitSendsLimit : Prop :=
  (∀ (c : Position) (limit : Fin 8) (s : State), Active s → ∃ t, exec (.setScanLimit c.val limit.val) s = .next t ∧
    Transmitted s t c 11 (BitVec.ofNat 8 limit.val) ∧ SameStatus s t ∧ t.mode = s.mode ∧
    (LinesIdle s → Received s t c
      { s.receiver.controllers[c] with scanLimit := { value := BitVec.ofNat 8 limit.val, known := true } } ∧
      (s.receiver.controllers[c].test = { value := 0, known := true } →
        s.receiver.controllers[c].shutdown = { value := 1, known := true } →
        s.receiver.controllers[c].decode = { value := 0, known := true } →
        ∀ r col : Fin 8,
          t.light c r col = if limit.val < r.val then .dark else litByDigit s.receiver.controllers[c] r col))) ∧
  (∀ (c limit : Int) (s : State), Active s → ¬ (InChain c ∧ 0 ≤ limit ∧ limit < 8) →
    exec (.setScanLimit c limit) s = .next { s with cp := s.cp + 1 })

/-- `setDecodeMode` with a valid index: any mode byte goes out unchanged as one frame to register 9 (41 R136, with
decision D19). -/
def Obligations.SetDecodeModePassesModeThrough : Prop :=
  ∀ (c : Position) (mode : Byte) (s : State), Active s → ∃ t, exec (.setDecodeMode c.val mode) s = .next t ∧
    Transmitted s t c 9 mode ∧ SameStatus s t ∧ t.mode = s.mode ∧
    (LinesIdle s → Received s t c { s.receiver.controllers[c] with decode := { value := mode, known := true } })

/-- `shutdown` with a valid index: `true` sends 0 to register 12 and records ActiveShutdown, `false` sends 1 and records
ActiveOn; no other MODE and no STATUS byte changes (41 R133, with decision D7; 10_state R30). -/
def Obligations.ShutdownSendsPolarityAndRecordsMode : Prop :=
  ∀ (c : Position) (enabled : Bool) (s : State), Active s → ∃ t, exec (.shutdown c.val enabled) s = .next t ∧
    Transmitted s t c 12 (if enabled then 0 else 1) ∧ SameStatus s t ∧
    t.mode[c] = (if enabled then .activeShutdown else .activeOn) ∧
    (∀ k : Position, k ≠ c → t.mode[k] = s.mode[k]) ∧
    (LinesIdle s → Received s t c
      { s.receiver.controllers[c] with shutdown := { value := if enabled then 0 else 1, known := true } })

/-- `displayTest` with a valid index: 1 or 0 goes out as one frame to register 15; STATUS and MODE are not touched
(41 R144, with decision D8). -/
def Obligations.DisplayTestLeavesStatusAndMode : Prop :=
  ∀ (c : Position) (enabled : Bool) (s : State), Active s → ∃ t, exec (.displayTest c.val enabled) s = .next t ∧
    Transmitted s t c 15 (if enabled then 1 else 0) ∧ SameStatus s t ∧ t.mode = s.mode ∧
    (LinesIdle s → Received s t c
      { s.receiver.controllers[c] with test := { value := if enabled then 1 else 0, known := true } })

/-- `initialize` completes in every state: three pin modes, LOAD high, the twenty-six register writes in order; STATUS
zero, every MODE ActiveOn, the lines idle with DATA low, FRAME as the last write leaves it (41 R131, with decisions D2,
D7 to D10 and D12). -/
def Obligations.InitialiseBlockEffect : Prop :=
  ∀ s : State, ∃ t, exec .initialise s = .next t ∧
    t.trace = s.trace ++ configureEvents ++ framesEvents (initWrites 0 ++ initWrites 1) ∧
    (∀ a, t.status.read a = if a < statusSize then 0x00 else s.status.read a) ∧
    (∀ c : Position, t.mode[c] = .activeOn) ∧ FrameHolds t 1 12 1 ∧
    t.pins =
      { data := { level := false, dir := .output }
        clk := { level := false, dir := .output }
        load := { level := true, dir := .output } } ∧
    t.cp = s.cp + 1 ∧ t.program = s.program

/-- From every state, whatever the chain, the registers and the pin latches held, `initialize` leaves every controller
known and configured, nothing owed: also with CLK high at the first bit, whose loss has no effect for N = 2 (41 R131;
70 R225, decision D17; 70 R228 and 42 R181; DECODE = 0x00 is decision D9 and log 5). -/
def Obligations.InitialiseConfiguresEveryController : Prop :=
  ∀ s : State, ∃ t, exec .initialise s = .next t ∧ Ready t ∧
    ∀ k : Position, t.receiver.controllers[k] = initialisedController

/-- In `initialize` the shutdown register is written last for each controller, after display-test, scan-limit,
decode-mode, the eight row registers and intensity (41 R132). -/
def Obligations.InitialiseReleasesShutdownLast : Prop :=
  ∀ s : State, ∃ (t : State) (body : Position → List RegisterWrite), exec .initialise s = .next t ∧
    t.trace = s.trace ++ configureEvents ++
      framesEvents (body 0 ++ [(0, 12, 1)] ++ body 1 ++ [(1, 12, 1)]) ∧
    ∀ c : Position, (∀ w ∈ body c, w.1 = c ∧ w.2.1 ≠ 12) ∧
      ∀ opcode ∈ ([15, 11, 9, 1, 2, 3, 4, 5, 6, 7, 8, 10] : List Byte), ∃ data, (c, opcode, data) ∈ body c

/-- The pin events of each command (70 R234, derived there): 3, 24, 98, 784 and 2552 for N = 2. -/
def Obligations.PinEventCounts : Prop :=
  (∀ s : State, ∃ t, exec .initialise s = .next t ∧ t.trace.length = s.trace.length + 2552) ∧
  (∀ (s : State) (c : Position) (value enabled : Bool) (byte data : Byte) (level : Fin 16) (row column : Fin 8),
    Active s →
      (∃ t, exec (.writeBit value) s = .next t ∧ t.trace.length = s.trace.length + 3) ∧
      (∃ t, exec (.writeByte byte) s = .next t ∧ t.trace.length = s.trace.length + 24) ∧
      (∃ t, exec (.clearDisplay c.val) s = .next t ∧ t.trace.length = s.trace.length + 784) ∧
      ∀ i ∈ [Instr.transmit c.val byte data, .shutdown c.val enabled, .setIntensity c.val level.val,
        .setScanLimit c.val row.val, .setDecodeMode c.val byte, .setLed c.val row.val column.val value,
        .displayTest c.val enabled],
        ∃ t, exec i s = .next t ∧ t.trace.length = s.trace.length + 98)

/-- MODE follows the source's state machine: `initialize` makes every controller ActiveOn, `shutdown` with a valid index
makes that one ActiveShutdown or ActiveOn, nothing else changes MODE; while one is Uninit no command but `initialize` has a
meaning (10_state R30). -/
def Obligations.ModeFollowsTheStateMachine : Prop :=
  (∀ s : State, ∃ t, exec .initialise s = .next t ∧ ∀ c : Position, t.mode[c] = .activeOn) ∧
    (∀ (c : Position) (enabled : Bool) (s : State), Active s → ∃ t, exec (.shutdown c.val enabled) s = .next t ∧
      t.mode = s.mode.set c (if enabled then .activeShutdown else .activeOn)) ∧
    (∀ (i : Instr) (s t : State), i ≠ .initialise →
      (∀ (c : Position) (enabled : Bool), i ≠ .shutdown c.val enabled) → exec i s = .next t → t.mode = s.mode) ∧
    ∀ (i : Instr) (s : State), isCommand i = true → i ≠ .initialise → (∃ c : Position, s.mode[c] = .uninit) →
      ∃ r, exec i s = .refused r

/-- STATUS is written by `initialize`, `clearDisplay` and `setLed` alone, and a wire word touches nothing of the block
(10_state, section 2; 42_controller_register_writes, section 2). -/
def Obligations.OnlyTheNamedCommandsWriteStatus : Prop :=
  ∀ (i : Instr) (s t : State), exec i s = .next t →
    ((i ≠ .initialise ∧ (∀ c, i ≠ .clearDisplay c) ∧ ∀ c row column state, i ≠ .setLed c row column state) →
      SameStatus s t) ∧
    (isCommand i = false → SameBlock s t)

/-! ### The wire words

What the spec says of a word is what it does to the registers. That a word performed apart from a command also takes its
controller out of the list `latching` is the model's (log 16). -/

/-- W.NOOP: no register changes, whatever the data; the controller no longer owes a word (the model's field, log 16). A
frame addressed to another controller gives this controller the word 0x0000, and so leaves it as it is (42 R164). -/
def Obligations.NoopWordChangesNoRegister : Prop :=
  (∀ (k : Position) (data : Byte) (s : State), exec (.wNoop k data) s =
    .next { s with receiver := { s.receiver with latching := s.receiver.latching.erase k } }) ∧
  ∀ (c k : Position) (opcode data : Byte) (s : State), Active s → LinesIdle s → k ≠ c →
    ∃ t, exec (.transmit c.val opcode data) s = .next t ∧ t.receiver.latchedWord k = some 0x0000 ∧
      decodeWire k 0x0000 = .ok (.wNoop k 0) ∧ t.receiver.controllers[k] = s.receiver.controllers[k]

/-- W.DIGIT0 to W.DIGIT7: the row register takes the data byte and no other register changes; shown raw, column col of
the row is then lit exactly when bit 7 - col of the data is 1 (42 R165 to R172). -/
def Obligations.DigitWordWritesOneRow : Prop :=
  ∀ word ∈ ([(Instr.wDigit0, 0), (Instr.wDigit1, 1), (Instr.wDigit2, 2), (Instr.wDigit3, 3), (Instr.wDigit4, 4),
      (Instr.wDigit5, 5), (Instr.wDigit6, 6), (Instr.wDigit7, 7)] : List ((Position → Byte → Instr) × Fin 8)),
    ∀ (k : Position) (data : Byte) (s : State), ∃ t, exec (word.1 k data) s = .next t ∧
      t = { s with
        receiver :=
          { s.receiver with
            controllers := s.receiver.controllers.set k
              { s.receiver.controllers[k] with
                digit := s.receiver.controllers[k].digit.set word.2 { value := data, known := true } }
            latching := s.receiver.latching.erase k } } ∧
      (s.receiver.controllers[k].test = { value := 0, known := true } →
        s.receiver.controllers[k].shutdown = { value := 1, known := true } →
        s.receiver.controllers[k].decode = { value := 0, known := true } →
        s.receiver.controllers[k].scanLimit = { value := 7, known := true } →
        ∀ col : Fin 8, t.light k word.2 col = if data.getLsbD (7 - col.val) then .lit else .dark)

/-- W.DECODEMODE: DECODE takes the data byte, any value (42 R173, with decision D9). -/
def Obligations.DecodeModeWordWritesDecode : Prop :=
  ∀ (k : Position) (data : Byte) (s : State), exec (.wDecodeMode k data) s = .next { s with
    receiver :=
      { s.receiver with
        controllers := s.receiver.controllers.set k
          { s.receiver.controllers[k] with decode := { value := data, known := true } }
        latching := s.receiver.latching.erase k } }

/-- W.INTENSITY with legal data 0 to 15: INTENSITY takes it, and what is lit does not change (42 R174). -/
def Obligations.IntensityWordWritesIntensity : Prop :=
  ∀ (k : Position) (data : Byte) (s : State), data.toNat < 16 → ∃ t, exec (.wIntensity k data) s = .next t ∧
    t = { s with
      receiver :=
        { s.receiver with
          controllers := s.receiver.controllers.set k
            { s.receiver.controllers[k] with intensity := { value := data, known := true } }
          latching := s.receiver.latching.erase k } } ∧
    ∀ (c : Position) (r col : Fin 8), t.light c r col = s.light c r col

/-- W.SCANLIMIT with legal data 0 to 7: SCANLIMIT takes it; no row register changes (42 R175, with decision D27). -/
def Obligations.ScanLimitWordWritesScanLimit : Prop :=
  ∀ (k : Position) (data : Byte) (s : State), data.toNat < 8 → exec (.wScanLimit k data) s = .next { s with
    receiver :=
      { s.receiver with
        controllers := s.receiver.controllers.set k
          { s.receiver.controllers[k] with scanLimit := { value := data, known := true } }
        latching := s.receiver.latching.erase k } }

/-- W.SHUTDOWN with legal data 0 or 1: SHUTDOWN takes it and no other register changes (42 R176, with decision D23). -/
def Obligations.ShutdownWordWritesShutdown : Prop :=
  ∀ (k : Position) (data : Byte) (s : State), data.toNat < 2 → exec (.wShutdown k data) s = .next { s with
    receiver :=
      { s.receiver with
        controllers := s.receiver.controllers.set k
          { s.receiver.controllers[k] with shutdown := { value := data, known := true } }
        latching := s.receiver.latching.erase k } }

/-- W.DISPLAYTEST with legal data 0 or 1: TEST takes it and no other register changes (42 R177, with decision D8). -/
def Obligations.DisplayTestWordWritesTest : Prop :=
  ∀ (k : Position) (data : Byte) (s : State), data.toNat < 2 → exec (.wDisplayTest k data) s = .next { s with
    receiver :=
      { s.receiver with
        controllers := s.receiver.controllers.set k
          { s.receiver.controllers[k] with test := { value := data, known := true } }
        latching := s.receiver.latching.erase k } }

/-- A wire word whose data is outside its register's legal range runs, and leaves every register of that controller
unknown and nothing else changed (42 R178, decision D26). -/
def Obligations.IllegalWireDataMakesControllerUnknown : Prop :=
  ∀ (k : Position) (data : Byte) (s : State) (i : Instr),
    ((i = .wIntensity k data ∧ 16 ≤ data.toNat) ∨ (i = .wScanLimit k data ∧ 8 ≤ data.toNat) ∨
      (i = .wShutdown k data ∧ 2 ≤ data.toNat) ∨ (i = .wDisplayTest k data ∧ 2 ≤ data.toNat)) →
    ∃ t, exec i s = .next t ∧ SameBlock s t ∧ t.receiver.controllers[k].AllUnknown ∧
      t.receiver.chain = s.receiver.chain ∧ t.receiver.latching = s.receiver.latching.erase k ∧
      ∀ c : Position, c ≠ k → t.receiver.controllers[c] = s.receiver.controllers[c]

/-! ### The receiver -/

/-- A controller that performs its word in a step of its own does what a LOAD edge inside a command makes it do, also for
a reserved or unknown word: the two ways the model runs wire words agree (42 R162, decision D23). That a word can be a step
of its own is the DESIGN CHOICE of log 16, and what a partly unknown word does that of log 12. -/
def Obligations.StepOfAWordIsTheLatchOfIt : Prop :=
  ∀ (s : State) (k : Position) (rest : List Position), s.receiver.latching = k :: rest →
    step s = .next { s with receiver := s.receiver.commit k }

/-- A rising edge of LOAD: every controller performs, on its own registers as they were, the word that stands in its own
16 bits of the chain, or becomes unknown where it has no rule; the chain stays, and nothing is owed (42 R162, decision
D23; R178). Two clauses rest on the model's own choices: that a known opcode other than the no-op with partly unknown data
(`latchedWord` is none, as it is for an unknown opcode) leaves the whole controller unknown is the DESIGN CHOICE of log 12,
where R165 to R177 name one register; and `latching`, which says that nothing is owed, is the model's field (log 16). -/
def Obligations.LoadEdgeLatchesEveryController : Prop :=
  ∀ s : State, s.pins.load = { level := false, dir := .output } →
    (pinWrite .load true s).receiver.chain = s.receiver.chain ∧ (pinWrite .load true s).receiver.latching = [] ∧
    ∀ k : Position,
      (∀ w after, s.receiver.latchedWord k = some w →
        wireRule (wireOpcode w) (wireData w) s.receiver.controllers[k] = some after →
        (pinWrite .load true s).receiver.controllers[k] = after) ∧
      ((∀ w, s.receiver.latchedWord k = some w →
          wireRule (wireOpcode w) (wireData w) s.receiver.controllers[k] = none) →
        (pinWrite .load true s).receiver.controllers[k].AllUnknown)

/-- A rising edge of CLK while LOAD is low shifts the chain by one and takes the level of DATA as bit 0; the falling edge
of CLK, a change of DATA and the falling edge of LOAD do nothing in the controllers (42 R161 and R162, decisions D22
and D23). -/
def Obligations.RisingClockShiftsChain : Prop :=
  ∀ (s : State) (v : Bool), s.pins.data.dir = .output → s.pins.load.dir = .output →
    (s.pins.clk = { level := false, dir := .output } → s.pins.load.level = false →
      (pinWrite .clk true s).receiver = { s.receiver with
        chain := ({ value := s.pins.data.level, known := true } :: s.receiver.chain).take
          (16 * Config.numControllers) }) ∧
    (s.pins.clk.dir = .output → (pinWrite .clk false s).receiver = s.receiver) ∧
    (pinWrite .data v s).receiver = s.receiver ∧ (pinWrite .load false s).receiver = s.receiver

/-- A rising edge of CLK while LOAD is high leaves the whole chain unknown and every register alone (42 R180, decision
D24; log 10). -/
def Obligations.ClockWithLoadHighForgetsChain : Prop :=
  ∀ s : State, s.pins.clk = { level := false, dir := .output } → s.pins.load = { level := true, dir := .output } →
    (pinWrite .clk true s).receiver.controllers = s.receiver.controllers ∧
    (pinWrite .clk true s).receiver.chain.length = 16 * Config.numControllers ∧
    ∀ b ∈ (pinWrite .clk true s).receiver.chain, b.known = false

/-- PinMode drives the pin at its latch and PinWrite sets the latch whatever the direction; each records its event, and
neither touches another pin or any other part of the block (10_state R27 and R28, decisions D13 and D29). -/
def Obligations.PinPrimitives : Prop :=
  ∀ (p : Line) (v : Bool) (s : State),
    ((pinMode p s).pins.get p = { s.pins.get p with dir := .output } ∧
      (pinMode p s).pins.wire p = some (s.pins.get p).level ∧ (pinMode p s).trace = s.trace ++ [.mode p] ∧
      (∀ q, q ≠ p → (pinMode p s).pins.get q = s.pins.get q) ∧
      SameBlock (pinMode p s) { s with
        pins := (pinMode p s).pins, events := (pinMode p s).events, receiver := (pinMode p s).receiver }) ∧
    ((pinWrite p v s).pins.get p = { s.pins.get p with level := v } ∧
      (pinWrite p v s).trace = s.trace ++ [.write p v] ∧
      (∀ q, q ≠ p → (pinWrite p v s).pins.get q = s.pins.get q) ∧
      SameBlock (pinWrite p v s) { s with
        pins := (pinWrite p v s).pins, events := (pinWrite p v s).events, receiver := (pinWrite p v s).receiver })

/-! ### What is lit -/

/-- The lit/dark function by its cases: a register it needs is unknown; test on and not shut down; test on and shut down;
shut down; decoding on; row not scanned; the row register's bit (42 R179, decision D27; log 18). -/
def Obligations.LightFollowsTheSevenCases : Prop :=
  ∀ (c : Controller) (r col : Fin 8),
    ((c.test.known = false ∨ c.shutdown.known = false) → c.light r col = .unknown) ∧
    (c.test.known = true → c.shutdown.known = true →
      (c.test.value = 1 → c.shutdown.value = 1 → c.light r col = .lit) ∧
      (c.test.value = 1 → c.shutdown.value = 0 → c.light r col = .unspecified) ∧
      (c.test.value = 0 → c.shutdown.value = 0 → c.light r col = .dark) ∧
      (c.test.value = 0 → c.shutdown.value = 1 →
        (c.decode.known = false → c.light r col = .unknown) ∧
        (c.decode.known = true → c.decode.value ≠ 0 → c.light r col = .unspecified) ∧
        (c.decode.known = true → c.decode.value = 0 →
          (c.scanLimit.known = false → c.light r col = .unknown) ∧
          (c.scanLimit.known = true → c.scanLimit.value.toNat < r.val → c.light r col = .dark) ∧
          (c.scanLimit.known = true → r.val ≤ c.scanLimit.value.toNat →
            (c.digit[r].known = false → c.light r col = .unknown) ∧
            (c.digit[r].known = true →
              c.light r col = if c.digit[r].value.getLsbD (7 - col.val) then .lit else .dark)))))

/-- While the mirror holds and a controller is on, not under test, not decoding and scanning all rows, exactly the LEDs
whose STATUS bit is 1 are lit (42 R179 with 10_state R22; 10_state R21). -/
def Obligations.LitIsTheStatusBit : Prop :=
  ∀ (s : State) (k : Position) (r col : Fin 8), Mirrors s → Active s →
    s.receiver.controllers[k].test = { value := 0, known := true } →
    s.receiver.controllers[k].shutdown = { value := 1, known := true } →
    s.receiver.controllers[k].decode = { value := 0, known := true } →
    s.receiver.controllers[k].scanLimit = { value := 7, known := true } →
    s.light k r col =
      if (s.status.read (statusAddress k.val r.val)).getLsbD (7 - col.val) then .lit else .dark

/-- After `initialize`, from any state, all 128 LEDs are dark, and `setLed` then lights exactly the one it names (42 R179;
41 R131 and R142; 95_test_vectors section 3.1). -/
def Obligations.InitialiseDarkensThenSetLedLightsOne : Prop :=
  ∀ s : State, ∃ t, exec .initialise s = .next t ∧ (∀ (k : Position) (r col : Fin 8), t.light k r col = .dark) ∧
    ∀ (c : Position) (row column : Fin 8), ∃ u, exec (.setLed c.val row.val column.val true) t = .next u ∧
      ∀ (k : Position) (r col : Fin 8),
        u.light k r col = if k = c ∧ r = row ∧ col = column then .lit else .dark

/-! ### Reset -/

/-- The state after power-on (10_state R37): STATUS zero, pins not driven, latches at the open reset levels, every MODE
Uninit, CP 0, TRACE empty, every bit of the chain and every register of the controllers unknown. The direction and the
unknowns are the spec's decisions D13 and D25; the empty command sequence is the model's choice (log 1). -/
def Obligations.ResetIsPowerOn : Prop :=
  (∀ a, a < statusSize → State.reset.status.read a = 0x00) ∧
    State.reset.pins.data = { level := Config.dataReset, dir := .input } ∧
    State.reset.pins.clk = { level := Config.clkReset, dir := .input } ∧
    State.reset.pins.load = { level := Config.loadReset, dir := .input } ∧
    (∀ c : Position, State.reset.mode[c] = .uninit) ∧ State.reset.cp = 0 ∧ State.reset.trace = [] ∧
    State.reset.program = [] ∧ State.reset.receiver.latching = [] ∧
    (∀ b ∈ State.reset.receiver.chain, b.known = false) ∧
    ∀ k : Position, State.reset.receiver.controllers[k].AllUnknown
end

