-- ==== Sys2Proof/Laws/Encoding.lean ====
section
/-!
SUPPORT. Laws/Encoding: the fields of a packed word are the fields it was packed from.
-/

namespace Sys2Proof

theorem extract_low {m n : Nat} (x : BitVec m) (y : BitVec n) : (x ++ y).extractLsb' 0 n = y := by
  ext i hi; simp [BitVec.getLsbD_append, hi]

theorem extract_high {m n : Nat} (x : BitVec m) (y : BitVec n) : (x ++ y).extractLsb' n m = x := by
  ext i hi; simp [BitVec.getLsbD_append, hi]

theorem extract_above {m n k : Nat} (start len : Nat) (x : BitVec m) (y : BitVec n) (h : start = n + k) :
    (x ++ y).extractLsb' start len = x.extractLsb' k len := by
  ext i hi
  subst h
  simp [BitVec.getLsbD_append, show ¬ n + k + i < n by omega, show n + k + i - n = k + i by omega]

/-- The two byte fields of a packed wire word. -/
@[simp] theorem wireOpcode_packWire (data opcode : Byte) : wireOpcode (packWire data opcode) = opcode :=
  extract_low data opcode
@[simp] theorem wireData_packWire (data opcode : Byte) : wireData (packWire data opcode) = data :=
  extract_high data opcode

/-- The fields of a packed command word. -/
@[simp] theorem cField_packCommand (op : BitVec 4) (s : Bool) (a b c : Byte) : cField (packCommand op s a b c) = c :=
  extract_low _ c
@[simp] theorem bField_packCommand (op : BitVec 4) (s : Bool) (a b c : Byte) : bField (packCommand op s a b c) = b :=
  (extract_above (k := 0) 8 8 _ c rfl).trans (extract_low _ b)
@[simp] theorem aField_packCommand (op : BitVec 4) (s : Bool) (a b c : Byte) : aField (packCommand op s a b c) = a :=
  (extract_above (k := 8) 16 8 _ c rfl).trans ((extract_above (k := 0) 8 8 _ b rfl).trans (extract_low _ a))
@[simp] theorem opField_packCommand (op : BitVec 4) (s : Bool) (a b c : Byte) : opField (packCommand op s a b c) = op :=
  (extract_above (k := 20) 28 4 _ c rfl).trans ((extract_above (k := 12) 20 4 _ b rfl).trans
    ((extract_above (k := 4) 12 4 _ a rfl).trans ((extract_above (k := 3) 4 4 _ (BitVec.ofBool s) rfl).trans
      (extract_high op 0))))
@[simp] theorem sField_packCommand (op : BitVec 4) (s : Bool) (a b c : Byte) : sField (packCommand op s a b c) = s := by
  have h : (packCommand op s a b c).extractLsb' 24 1 = BitVec.ofBool s :=
    (extract_above (k := 16) 24 1 _ c rfl).trans ((extract_above (k := 8) 16 1 _ b rfl).trans
      ((extract_above (k := 0) 8 1 _ a rfl).trans (extract_low _ (BitVec.ofBool s))))
  have := congrArg (fun v => v.getLsbD 0) h
  simpa [sField] using this

/-- An integer that fits the field comes back from it (30_encoding R90). -/
theorem sext8_field8 (x : Int) (h : fitsField x) : sext8 (field8 x) = x := by
  obtain ⟨h1, h2⟩ := h
  simp only [sext8, field8, BitVec.toInt_ofInt]
  rw [Int.bmod_eq_of_le] <;> omega

/-- The bitwise and of two concatenations, part by part. -/
theorem append_and {m n : Nat} (x x' : BitVec m) (y y' : BitVec n) :
    (x ++ y) &&& (x' ++ y') = (x &&& x') ++ (y &&& y') := by
  ext i hi; simp

/-- A command word under a mask, field by field. -/
theorem packCommand_and (op om : BitVec 4) (zm : BitVec 3) (s sm : Bool) (a am b bm c cm : Byte) :
    packCommand op s a b c &&& (om ++ zm ++ BitVec.ofBool sm ++ am ++ bm ++ cm) =
      packCommand (op &&& om) (s && sm) (a &&& am) (b &&& bm) (c &&& cm) := by
  refine (append_and ((((op ++ (0 : BitVec 3)) ++ BitVec.ofBool s) ++ a) ++ b)
    ((((om ++ zm) ++ BitVec.ofBool sm) ++ am) ++ bm) c cm).trans ?_
  simp only [append_and]
  have : BitVec.ofBool s &&& BitVec.ofBool sm = BitVec.ofBool (s && sm) := by cases s <;> cases sm <;> rfl
  rw [this]
  simp [packCommand]

/-- A packed command word compared with a row of the opcode map, field by field (30_encoding R89). -/
theorem packCommand_row (op om : BitVec 4) (zm : BitVec 3) (s sm : Bool) (a am b bm c cm : Byte) (p m : CmdWord)
    (hm : m = om ++ zm ++ BitVec.ofBool sm ++ am ++ bm ++ cm)
    (hp : p = packCommand (op &&& om) (s && sm) (a &&& am) (b &&& bm) (c &&& cm)) :
    packCommand op s a b c &&& m = p := by rw [hm, packCommand_and, hp]

end Sys2Proof
end

