-- ==== Sys2Proof/Laws/Memory.lean ====
section
/-!
SUPPORT. Laws/Memory: reading after writing a byte space, and that a write keeps its canonical form.
-/

namespace Sys2Proof.Machine

@[simp] theorem Memory.read_nil (a : Nat) : Memory.read [] a = 0x00 := rfl

theorem Memory.read_erase (m : Memory) (a b : Nat) :
    (m.erase a).read b = if b = a then 0x00 else m.read b := by
  induction m with
  | nil => simp [Memory.erase]
  | cons cell rest ih =>
    obtain ⟨x, v⟩ := cell
    simp only [Memory.erase]
    split
    · subst x; rw [ih]; simp only [Memory.read]; split <;> rfl
    · simp only [Memory.read]
      split
      · subst b; simp [*]
      · exact ih

theorem Memory.read_insert (m : Memory) (a b : Nat) (v : Byte) (h : m.read a = 0x00)
    (fresh : ∀ cell ∈ m, cell.1 ≠ a) :
    (m.insert a v).read b = if b = a then v else m.read b := by
  induction m with
  | nil => simp [Memory.insert, Memory.read]
  | cons cell rest ih =>
    obtain ⟨x, w⟩ := cell
    have hx : x ≠ a := fresh (x, w) (by simp)
    have hrest : Memory.read rest a = 0x00 := by simpa [Memory.read, Ne.symm hx] using h
    simp only [Memory.insert]
    split
    · simp only [Memory.read]
    · simp only [Memory.read]
      split
      · subst b; simp [hx]
      · exact ih hrest (fun cell hc => fresh cell (by simp [hc]))

theorem Memory.mem_erase (m : Memory) (a : Nat) (cell : Host.Cell) (h : cell ∈ m.erase a) : cell ∈ m ∧ cell.1 ≠ a := by
  induction m with
  | nil => simp [Memory.erase] at h
  | cons first rest ih =>
    obtain ⟨x, v⟩ := first
    simp only [Memory.erase] at h
    split at h
    · exact ⟨List.mem_cons_of_mem _ (ih h).1, (ih h).2⟩
    · rcases List.mem_cons.mp h with rfl | h
      · exact ⟨by simp, by assumption⟩
      · exact ⟨List.mem_cons_of_mem _ (ih h).1, (ih h).2⟩

/-- A write gives the value written, and leaves every other address alone. -/
theorem Memory.read_write (m : Memory) (a b : Nat) (v : Byte) :
    (m.write a v).read b = if b = a then v else m.read b := by
  unfold Memory.write
  split
  · subst v; exact Memory.read_erase m a b
  · rw [Memory.read_insert _ _ _ _ (by simp [Memory.read_erase])
      (fun cell hc => (Memory.mem_erase m a cell hc).2)]
    split
    · rfl
    · simp [Memory.read_erase, *]

@[simp] theorem Memory.read_write_same (m : Memory) (a : Nat) (v : Byte) : (m.write a v).read a = v := by
  simp [Memory.read_write]

theorem Memory.read_write_other (m : Memory) {a b : Nat} (v : Byte) (h : b ≠ a) :
    (m.write a v).read b = m.read b := by
  simp [Memory.read_write, h]

theorem Memory.canonical_mono {m : Memory} {low low' high : Nat} (h : low' ≤ low)
    (hm : m.canonical low high = true) : m.canonical low' high = true := by
  cases m with
  | nil => rfl
  | cons cell rest =>
    obtain ⟨a, v⟩ := cell
    simp only [Memory.canonical, Bool.and_eq_true, decide_eq_true_eq] at hm ⊢
    exact ⟨⟨⟨by omega, hm.1.1.2⟩, hm.1.2⟩, hm.2⟩

theorem Memory.canonical_erase {m : Memory} {low high : Nat} (a : Nat) (hm : m.canonical low high = true) :
    (m.erase a).canonical low high = true := by
  induction m generalizing low with
  | nil => rfl
  | cons cell rest ih =>
    obtain ⟨x, v⟩ := cell
    simp only [Memory.canonical, Bool.and_eq_true, decide_eq_true_eq] at hm
    simp only [Memory.erase]
    split
    · exact ih (Memory.canonical_mono (by omega) hm.2)
    · simp only [Memory.canonical, Bool.and_eq_true, decide_eq_true_eq]
      exact ⟨hm.1, ih hm.2⟩

theorem Memory.canonical_insert {m : Memory} {low high : Nat} (a : Nat) (v : Byte) (hm : m.canonical low high = true)
    (hlow : low ≤ a) (hhigh : a < high) (hv : v ≠ 0x00) (fresh : ∀ cell ∈ m, cell.1 ≠ a) :
    (m.insert a v).canonical low high = true := by
  induction m generalizing low with
  | nil => simpa [Memory.insert, Memory.canonical, hlow, hhigh] using hv
  | cons cell rest ih =>
    obtain ⟨x, w⟩ := cell
    have hx : x ≠ a := fresh (x, w) (by simp)
    simp only [Memory.canonical, Bool.and_eq_true, decide_eq_true_eq] at hm
    simp only [Memory.insert]
    split
    · simp only [Memory.canonical, Bool.and_eq_true, decide_eq_true_eq]
      exact ⟨⟨⟨hlow, hhigh⟩, hv⟩, ⟨⟨by omega, hm.1.1.2⟩, hm.1.2⟩, hm.2⟩
    · simp only [Memory.canonical, Bool.and_eq_true, decide_eq_true_eq]
      exact ⟨hm.1, ih hm.2 (by omega) (fun cell hc => fresh cell (by simp [hc]))⟩

/-- A write inside the space keeps the canonical form. -/
theorem Memory.write_wf {m : Memory} {size : Nat} (a : Nat) (v : Byte) (hm : m.wf size = true) (ha : a < size) :
    (m.write a v).wf size = true := by
  unfold Memory.write
  split
  · exact Memory.canonical_erase a hm
  · exact Memory.canonical_insert a v (Memory.canonical_erase a hm) (by omega) ha (by assumption)
      (fun cell hc => (Memory.mem_erase m a cell hc).2)

/-- The memories of the reset state are in canonical form. -/
theorem reset_memory_wf : State.reset.status.wf statusSize = true ∧ State.reset.frame.wf frameSize = true := ⟨rfl, rfl⟩

end Sys2Proof.Machine
end

