-- ==== Sys2Proof/Laws/State.lean ====
section
/-!
SUPPORT. Laws/State: one lemma per field per update, so that no later proof unfolds a record update.
-/

namespace Sys2Proof.Machine

@[simp] theorem pinMode_status (p : Line) (s : State) : (pinMode p s).status = s.status := rfl
@[simp] theorem pinMode_frame (p : Line) (s : State) : (pinMode p s).frame = s.frame := rfl
@[simp] theorem pinMode_pins (p : Line) (s : State) : (pinMode p s).pins = s.pins.set p { s.pins.get p with dir := .output } := rfl
@[simp] theorem pinMode_mode (p : Line) (s : State) : (pinMode p s).mode = s.mode := rfl
@[simp] theorem pinMode_cp (p : Line) (s : State) : (pinMode p s).cp = s.cp := rfl
@[simp] theorem pinMode_events (p : Line) (s : State) : (pinMode p s).events = .mode p :: s.events := rfl
@[simp] theorem pinMode_program (p : Line) (s : State) : (pinMode p s).program = s.program := rfl
@[simp] theorem pinMode_receiver (p : Line) (s : State) : (pinMode p s).receiver = s.receiver.onMode s.pins p := rfl

@[simp] theorem pinWrite_status (p : Line) (v : Bool) (s : State) : (pinWrite p v s).status = s.status := rfl
@[simp] theorem pinWrite_frame (p : Line) (v : Bool) (s : State) : (pinWrite p v s).frame = s.frame := rfl
@[simp] theorem pinWrite_pins (p : Line) (v : Bool) (s : State) : (pinWrite p v s).pins = s.pins.set p { s.pins.get p with level := v } := rfl
@[simp] theorem pinWrite_mode (p : Line) (v : Bool) (s : State) : (pinWrite p v s).mode = s.mode := rfl
@[simp] theorem pinWrite_cp (p : Line) (v : Bool) (s : State) : (pinWrite p v s).cp = s.cp := rfl
@[simp] theorem pinWrite_events (p : Line) (v : Bool) (s : State) : (pinWrite p v s).events = .write p v :: s.events := rfl
@[simp] theorem pinWrite_program (p : Line) (v : Bool) (s : State) : (pinWrite p v s).program = s.program := rfl
@[simp] theorem pinWrite_receiver (p : Line) (v : Bool) (s : State) : (pinWrite p v s).receiver = s.receiver.onWrite s.pins p v := rfl

@[simp] theorem setMode_status (c : Position) (m : Mode) (s : State) : (setMode c m s).status = s.status := rfl
@[simp] theorem setMode_frame (c : Position) (m : Mode) (s : State) : (setMode c m s).frame = s.frame := rfl
@[simp] theorem setMode_pins (c : Position) (m : Mode) (s : State) : (setMode c m s).pins = s.pins := rfl
@[simp] theorem setMode_mode (c : Position) (m : Mode) (s : State) : (setMode c m s).mode = s.mode.set c m := rfl
@[simp] theorem setMode_cp (c : Position) (m : Mode) (s : State) : (setMode c m s).cp = s.cp := rfl
@[simp] theorem setMode_events (c : Position) (m : Mode) (s : State) : (setMode c m s).events = s.events := rfl
@[simp] theorem setMode_program (c : Position) (m : Mode) (s : State) : (setMode c m s).program = s.program := rfl
@[simp] theorem setMode_receiver (c : Position) (m : Mode) (s : State) : (setMode c m s).receiver = s.receiver := rfl

@[simp] theorem State.advance_status (s : State) : (s.advance).status = s.status := rfl
@[simp] theorem State.advance_frame (s : State) : (s.advance).frame = s.frame := rfl
@[simp] theorem State.advance_pins (s : State) : (s.advance).pins = s.pins := rfl
@[simp] theorem State.advance_mode (s : State) : (s.advance).mode = s.mode := rfl
@[simp] theorem State.advance_cp (s : State) : (s.advance).cp = s.cp + 1 := rfl
@[simp] theorem State.advance_events (s : State) : (s.advance).events = s.events := rfl
@[simp] theorem State.advance_program (s : State) : (s.advance).program = s.program := rfl
@[simp] theorem State.advance_receiver (s : State) : (s.advance).receiver = s.receiver := rfl

@[simp] theorem pinMode_trace (p : Line) (s : State) : (pinMode p s).trace = s.trace ++ [.mode p] := List.reverse_cons
@[simp] theorem pinWrite_trace (p : Line) (v : Bool) (s : State) : (pinWrite p v s).trace = s.trace ++ [.write p v] := List.reverse_cons
@[simp] theorem setMode_trace (c : Position) (m : Mode) (s : State) : (setMode c m s).trace = s.trace := rfl
@[simp] theorem State.advance_trace (s : State) : s.advance.trace = s.trace := rfl

/-! ### The receiver's updates -/

@[simp] theorem Receiver.forgetController_chain (k : Position) (r : Receiver) :
    (r.forgetController k).chain = r.chain := rfl
@[simp] theorem Receiver.forgetController_controllers (k : Position) (r : Receiver) :
    (r.forgetController k).controllers = r.controllers.set k (unknownController r.fresh) := rfl
@[simp] theorem Receiver.forgetController_latching (k : Position) (r : Receiver) :
    (r.forgetController k).latching = r.latching := rfl
@[simp] theorem Receiver.forgetController_fresh (k : Position) (r : Receiver) :
    (r.forgetController k).fresh = r.fresh + 1 := rfl

@[simp] theorem Receiver.shift_chain (d : ChainBit) (r : Receiver) :
    (r.shift d).chain = (d :: r.chain).take (16 * Config.numControllers) := rfl
@[simp] theorem Receiver.shift_controllers (d : ChainBit) (r : Receiver) :
    (r.shift d).controllers = r.controllers := rfl
@[simp] theorem Receiver.shift_latching (d : ChainBit) (r : Receiver) :
    (r.shift d).latching = r.latching := rfl
@[simp] theorem Receiver.shift_fresh (d : ChainBit) (r : Receiver) :
    (r.shift d).fresh = r.fresh := rfl

@[simp] theorem Receiver.forgetChain_chain (r : Receiver) :
    (r.forgetChain).chain = (List.range (16 * Config.numControllers)).map (fun i => { value := Config.freeBit r.fresh i, known := false }) := rfl
@[simp] theorem Receiver.forgetChain_controllers (r : Receiver) :
    (r.forgetChain).controllers = r.controllers := rfl
@[simp] theorem Receiver.forgetChain_latching (r : Receiver) :
    (r.forgetChain).latching = r.latching := rfl
@[simp] theorem Receiver.forgetChain_fresh (r : Receiver) :
    (r.forgetChain).fresh = r.fresh + 1 := rfl

/-! ### The pins -/

@[simp] theorem Pins.get_data (ps : Pins) : ps.get .data = ps.data := rfl
@[simp] theorem Pins.get_clk (ps : Pins) : ps.get .clk = ps.clk := rfl
@[simp] theorem Pins.get_load (ps : Pins) : ps.get .load = ps.load := rfl
@[simp] theorem Pins.set_data_data (ps : Pins) (x : Pin) : (ps.set .data x).data = x := rfl
@[simp] theorem Pins.set_data_clk (ps : Pins) (x : Pin) : (ps.set .data x).clk = ps.clk := rfl
@[simp] theorem Pins.set_data_load (ps : Pins) (x : Pin) : (ps.set .data x).load = ps.load := rfl
@[simp] theorem Pins.set_clk_data (ps : Pins) (x : Pin) : (ps.set .clk x).data = ps.data := rfl
@[simp] theorem Pins.set_clk_clk (ps : Pins) (x : Pin) : (ps.set .clk x).clk = x := rfl
@[simp] theorem Pins.set_clk_load (ps : Pins) (x : Pin) : (ps.set .clk x).load = ps.load := rfl
@[simp] theorem Pins.set_load_data (ps : Pins) (x : Pin) : (ps.set .load x).data = ps.data := rfl
@[simp] theorem Pins.set_load_clk (ps : Pins) (x : Pin) : (ps.set .load x).clk = ps.clk := rfl
@[simp] theorem Pins.set_load_load (ps : Pins) (x : Pin) : (ps.set .load x).load = x := rfl

/-- A driven wire stands at its latch (10_state R26). -/
theorem Pins.wire_of_output {ps : Pins} {p : Line} (h : (ps.get p).dir = .output) :
    ps.wire p = some (ps.get p).level := by
  simp [Pins.wire, h]

/-- A wire that is not driven is unknown (10_state R26). -/
theorem Pins.wire_of_input {ps : Pins} {p : Line} (h : (ps.get p).dir = .input) : ps.wire p = none := by
  simp [Pins.wire, h]

/-- A known wire says that the pin is driven at that level. -/
theorem Pins.wire_eq_some {ps : Pins} {p : Line} {v : Bool} (h : ps.wire p = some v) :
    (ps.get p).dir = .output ∧ (ps.get p).level = v := by
  unfold Pins.wire at h
  split at h
  · exact ⟨by assumption, by simpa using h⟩
  · simp at h

end Sys2Proof.Machine
end

