-- ==== Sys2Proof/Laws/Transport.lean ====
section
/-!
SUPPORT. Laws/Transport: what writeBit, writeByte and transmit do to the block, said once. The controllers' side of the
same operations is in Laws/Receiver.
-/

namespace Sys2Proof.Machine

/-- An operation that completed hands its state on. -/
@[simp] theorem ok_bind {α β : Type} (a : α) (f : α → Except Fault β) :
    ((Except.ok a : Except Fault α) >>= f) = f a := rfl

theorem frameSize_eq : frameSize = 4 := rfl
theorem statusSize_eq : statusSize = 16 := rfl

/-! ### writeBit and writeByte on the block -/

@[simp] theorem bitOut_status (v : Bool) (s : State) : (bitOut v s).status = s.status := rfl
@[simp] theorem bitOut_frame (v : Bool) (s : State) : (bitOut v s).frame = s.frame := rfl
@[simp] theorem bitOut_mode (v : Bool) (s : State) : (bitOut v s).mode = s.mode := rfl
@[simp] theorem bitOut_cp (v : Bool) (s : State) : (bitOut v s).cp = s.cp := rfl
@[simp] theorem bitOut_program (v : Bool) (s : State) : (bitOut v s).program = s.program := rfl
@[simp] theorem bitOut_events (v : Bool) (s : State) :
    (bitOut v s).events = .write .clk false :: .write .clk true :: .write .data v :: s.events := rfl
@[simp] theorem bitOut_pins (v : Bool) (s : State) :
    (bitOut v s).pins =
      { s.pins with data := { s.pins.data with level := v }, clk := { s.pins.clk with level := false } } := rfl

/-- `writeByte` as its eight bits. -/
theorem byteOut_eq (b : Byte) (s : State) :
    byteOut b s =
      bitOut (b.getLsbD 0) (bitOut (b.getLsbD 1) (bitOut (b.getLsbD 2) (bitOut (b.getLsbD 3)
        (bitOut (b.getLsbD 4) (bitOut (b.getLsbD 5) (bitOut (b.getLsbD 6) (bitOut (b.getLsbD 7) s))))))) := by
  simp only [byteOut, List.foldl_cons, List.foldl_nil]

@[simp] theorem byteOut_status (b : Byte) (s : State) : (byteOut b s).status = s.status := by simp [byteOut_eq]
@[simp] theorem byteOut_frame (b : Byte) (s : State) : (byteOut b s).frame = s.frame := by simp [byteOut_eq]
@[simp] theorem byteOut_mode (b : Byte) (s : State) : (byteOut b s).mode = s.mode := by simp [byteOut_eq]
@[simp] theorem byteOut_cp (b : Byte) (s : State) : (byteOut b s).cp = s.cp := by simp [byteOut_eq]
@[simp] theorem byteOut_program (b : Byte) (s : State) : (byteOut b s).program = s.program := by simp [byteOut_eq]

@[simp] theorem byteOut_pins (b : Byte) (s : State) :
    (byteOut b s).pins =
      { s.pins with
        data := { s.pins.data with level := b.getLsbD 0 }, clk := { s.pins.clk with level := false } } := by
  simp [byteOut_eq]

@[simp] theorem bitOut_trace (v : Bool) (s : State) : (bitOut v s).trace = s.trace ++ bitEvents v := by
  simp [State.trace, bitEvents]

@[simp] theorem byteOut_trace (b : Byte) (s : State) : (byteOut b s).trace = s.trace ++ byteEvents b := by
  simp only [byteOut_eq, bitOut_trace, byteEvents, List.append_assoc]

/-- Four bytes sent one after another, with LOAD low before and high after. -/
def sendBytes (b3 b2 b1 b0 : Byte) (s : State) : State :=
  pinWrite .load true (byteOut b0 (byteOut b1 (byteOut b2 (byteOut b3 (pinWrite .load false s)))))

/-- The FRAME space after `transmit` has built its frame. -/
def frameMemory (c : Position) (opcode data : Byte) (m : Memory) : Memory :=
  (((((m.write 0 0x00).write 1 0x00).write 2 0x00).write 3 0x00).write (2 * c.val) opcode).write (2 * c.val + 1) data

theorem frameMemory_read (c : Position) (opcode data : Byte) (m : Memory) (i : Nat) :
    (frameMemory c opcode data m).read i =
      if i = 2 * c.val + 1 then data else if i = 2 * c.val then opcode
      else if i < 4 then 0x00 else m.read i := by
  simp only [frameMemory, Memory.read_write]
  split
  · rfl
  · split
    · rfl
    · rcases Nat.lt_or_ge i 4 with h | h
      · have : i = 0 ∨ i = 1 ∨ i = 2 ∨ i = 3 := by omega
        rcases this with rfl | rfl | rfl | rfl <;> simp
      · simp [show ¬ i < 4 by omega, show i ≠ 0 by omega, show i ≠ 1 by omega, show i ≠ 2 by omega,
          show i ≠ 3 by omega]

theorem frameMemory_wf (c : Position) (opcode data : Byte) {m : Memory} (h : m.wf frameSize = true) :
    (frameMemory c opcode data m).wf frameSize = true := by
  have hc : c.val < 2 := c.isLt
  have hs : frameSize = 4 := rfl
  unfold frameMemory
  refine Memory.write_wf _ _ (Memory.write_wf _ _ (Memory.write_wf _ _ (Memory.write_wf _ _ (Memory.write_wf _ _
    (Memory.write_wf _ _ h ?_) ?_) ?_) ?_) ?_) ?_ <;> omega

/-- The bytes of a frame on the wire, by controller. -/
def frameByte (c : Position) (opcode data : Byte) (i : Nat) : Byte :=
  if i = 2 * c.val + 1 then data else if i = 2 * c.val then opcode else 0x00

/-- Building the frame of an index in range always completes. -/
theorem buildFrame_eq (c : Position) (opcode data : Byte) (s : State) :
    buildFrame c.val opcode data s = .ok { s with frame := frameMemory c opcode data s.frame } := by
  have hc : c.val < 2 := c.isLt
  have zero : zeroFrame s =
      .ok { s with frame := (((s.frame.write 0 0x00).write 1 0x00).write 2 0x00).write 3 0x00 } := rfl
  rw [buildFrame, zero, ok_bind, frameWrite, if_pos (by rw [frameSize_eq]; omega), ok_bind, frameWrite,
    if_pos (by rw [frameSize_eq]; omega)]
  rfl

/-- `transmit` with an index in range always completes, and this is the state it leaves (40 R114). -/
theorem transmitFrame_eq (c : Position) (opcode data : Byte) (s : State) :
    transmitFrame c.val opcode data s =
      .ok (sendBytes (frameByte c opcode data 3) (frameByte c opcode data 2) (frameByte c opcode data 1)
        (frameByte c opcode data 0) { s with frame := frameMemory c opcode data s.frame }) := by
  have reads : ∀ i, i < 4 → ∀ t : State, t.frame = frameMemory c opcode data s.frame →
      frameByteOut t i = .ok (byteOut (frameByte c opcode data i) t) := by
    intro i hi t ht
    have : (frameMemory c opcode data s.frame).read i = frameByte c opcode data i := by
      simp only [frameMemory_read, frameByte, if_pos hi]
    rw [frameByteOut, frameRead, if_pos (by rw [frameSize_eq]; exact hi), ht, this]
    rfl
  have order : (List.range frameSize).reverse = [3, 2, 1, 0] := rfl
  rw [transmitFrame, buildFrame_eq, ok_bind, order, List.foldlM_cons, reads 3 (by omega) _ (by simp), ok_bind,
    List.foldlM_cons, reads 2 (by omega) _ (by simp), ok_bind, List.foldlM_cons, reads 1 (by omega) _ (by simp),
    ok_bind, List.foldlM_cons, reads 0 (by omega) _ (by simp), ok_bind]
  rfl

/-! ### One transmission on the block -/

@[simp] theorem sendBytes_status (b3 b2 b1 b0 : Byte) (s : State) : (sendBytes b3 b2 b1 b0 s).status = s.status := by
  simp [sendBytes]
@[simp] theorem sendBytes_frame (b3 b2 b1 b0 : Byte) (s : State) : (sendBytes b3 b2 b1 b0 s).frame = s.frame := by
  simp [sendBytes]
@[simp] theorem sendBytes_mode (b3 b2 b1 b0 : Byte) (s : State) : (sendBytes b3 b2 b1 b0 s).mode = s.mode := by
  simp [sendBytes]
@[simp] theorem sendBytes_cp (b3 b2 b1 b0 : Byte) (s : State) : (sendBytes b3 b2 b1 b0 s).cp = s.cp := by
  simp [sendBytes]
@[simp] theorem sendBytes_program (b3 b2 b1 b0 : Byte) (s : State) :
    (sendBytes b3 b2 b1 b0 s).program = s.program := by simp [sendBytes]

@[simp] theorem sendBytes_pins (b3 b2 b1 b0 : Byte) (s : State) :
    (sendBytes b3 b2 b1 b0 s).pins =
      { data := { s.pins.data with level := b0.getLsbD 0 }
        clk := { s.pins.clk with level := false }
        load := { s.pins.load with level := true } } := by
  simp [sendBytes, Pins.set]

@[simp] theorem sendBytes_trace (b3 b2 b1 b0 : Byte) (s : State) :
    (sendBytes b3 b2 b1 b0 s).trace =
      s.trace ++ ([.write .load false] ++ [b3, b2, b1, b0].flatMap byteEvents ++ [.write .load true]) := by
  simp [sendBytes, List.append_assoc]

/-- The state after a transmission to controller `c`. -/
def frameSent (c : Position) (opcode data : Byte) (s : State) : State :=
  sendBytes (frameByte c opcode data 3) (frameByte c opcode data 2) (frameByte c opcode data 1)
    (frameByte c opcode data 0) { s with frame := frameMemory c opcode data s.frame }

/-- `transmit` with an index in range always completes (40 R114). -/
theorem transmitFrame_ok (c : Position) (opcode data : Byte) (s : State) :
    transmitFrame c.val opcode data s = .ok (frameSent c opcode data s) := transmitFrame_eq c opcode data s

@[simp] theorem frameSent_status (c : Position) (opcode data : Byte) (s : State) :
    (frameSent c opcode data s).status = s.status := by simp [frameSent]
@[simp] theorem frameSent_mode (c : Position) (opcode data : Byte) (s : State) :
    (frameSent c opcode data s).mode = s.mode := by simp [frameSent]
@[simp] theorem frameSent_cp (c : Position) (opcode data : Byte) (s : State) :
    (frameSent c opcode data s).cp = s.cp := by simp [frameSent]
@[simp] theorem frameSent_program (c : Position) (opcode data : Byte) (s : State) :
    (frameSent c opcode data s).program = s.program := by simp [frameSent]
@[simp] theorem frameSent_frame (c : Position) (opcode data : Byte) (s : State) :
    (frameSent c opcode data s).frame = frameMemory c opcode data s.frame := by simp [frameSent]

/-- There are two positions. -/
theorem position_cases (c : Position) : c = 0 ∨ c = 1 := by
  revert c; decide

/-- The four bytes leave in the order of R115. -/
theorem frameByte_order (c : Position) (opcode data : Byte) :
    [frameByte c opcode data 3, frameByte c opcode data 2, frameByte c opcode data 1, frameByte c opcode data 0] =
      wireOrder c opcode data := by
  rcases position_cases c with rfl | rfl <;> rfl

theorem frameByte_zero (c : Position) (opcode data : Byte) :
    frameByte c opcode data 0 = if c = 0 then opcode else 0x00 := by
  rcases position_cases c with rfl | rfl <;> rfl

@[simp] theorem frameSent_trace (c : Position) (opcode data : Byte) (s : State) :
    (frameSent c opcode data s).trace = s.trace ++ frameEvents c opcode data := by
  rw [frameSent, sendBytes_trace, frameByte_order]; rfl

@[simp] theorem frameSent_pins (c : Position) (opcode data : Byte) (s : State) :
    (frameSent c opcode data s).pins =
      { data := { s.pins.data with level := if c = 0 then opcode.getLsbD 0 else false }
        clk := { s.pins.clk with level := false }
        load := { s.pins.load with level := true } } := by
  rw [frameSent, sendBytes_pins, frameByte_zero]
  split <;> simp

/-- FRAME after a transmission (20_memory R51). -/
theorem frameSent_frameHolds (c : Position) (opcode data : Byte) (s : State) :
    FrameHolds (frameSent c opcode data s) c opcode data := by
  intro i hi
  have hi : i < 4 := hi
  rw [frameSent_frame, frameMemory_read]
  have hc : c.val < 2 := c.isLt
  split
  · rw [if_neg (by omega)]
  · split
    · rfl
    · simp

end Sys2Proof.Machine
end

