-- ==== Sys2Proof/Laws/Receiver.lean ====
section
/-!
SUPPORT. Laws/Receiver: what the chained controllers do while the block sends: shifting, the latch, and what a whole
transmission leaves in them (42 R161 to R163, 70 R228).
-/

namespace Sys2Proof.Machine

/-- The eight known bits of a byte as they stand in the chain, bit 0 first. -/
def byteChain (b : Byte) : List ChainBit :=
  [⟨b.getLsbD 0, true⟩, ⟨b.getLsbD 1, true⟩, ⟨b.getLsbD 2, true⟩, ⟨b.getLsbD 3, true⟩, ⟨b.getLsbD 4, true⟩,
    ⟨b.getLsbD 5, true⟩, ⟨b.getLsbD 6, true⟩, ⟨b.getLsbD 7, true⟩]

@[simp] theorem byteChain_length (b : Byte) : (byteChain b).length = 8 := rfl
@[simp] theorem knownByte_byteChain (b : Byte) : knownByte (byteChain b) = true := rfl

/-- The bits of a byte read back as the byte. -/
@[simp] theorem byteOfBits_byteChain (b : Byte) : byteOfBits (byteChain b) = b := by
  revert b; decide

/-! ### Shifting -/

/-- The lines while a frame is being shifted: all driven, CLK low, LOAD low. -/
def Shifting (s : State) : Prop :=
  s.pins.data.dir = .output ∧ s.pins.clk = { level := false, dir := .output } ∧
    s.pins.load = { level := false, dir := .output }

/-- One bit sent while a frame is being shifted is one shift (42 R161). -/
theorem bitOut_receiver (v : Bool) (s : State) (h : Shifting s) :
    (bitOut v s).receiver = s.receiver.shift ⟨v, true⟩ := by
  obtain ⟨h1, h2, h3⟩ := h
  simp [bitOut, Receiver.onWrite, Receiver.onClkEdge, Receiver.shiftWire, Pins.edge, Pins.wire, h1, h2, h3]

theorem bitOut_shifting (v : Bool) (s : State) (h : Shifting s) : Shifting (bitOut v s) := by
  obtain ⟨h1, h2, h3⟩ := h
  simp [Shifting, h1, h2, h3]

/-- Bits newly shifted in stand before what was in the chain. -/
def Receiver.shiftAll (bits : List ChainBit) (r : Receiver) : Receiver :=
  { r with chain := (bits ++ r.chain).take (16 * Config.numControllers) }

theorem Receiver.shift_shiftAll (d : ChainBit) (bits : List ChainBit) (r : Receiver) :
    (r.shiftAll bits).shift d = r.shiftAll (d :: bits) := by
  have (n : Nat) (l : List ChainBit) : (d :: l.take (n + 1)).take (n + 1) = (d :: l).take (n + 1) := by
    rw [List.take_succ_cons, List.take_succ_cons, List.take_take]
    simp
  exact congrArg (fun chain => { r with chain := chain }) (this 31 (bits ++ r.chain))

theorem Receiver.shiftAll_shiftAll (a b : List ChainBit) (r : Receiver) :
    (r.shiftAll b).shiftAll a = r.shiftAll (a ++ b) := by
  induction a with
  | nil => simp [Receiver.shiftAll]
  | cons d rest ih => rw [List.cons_append, ← Receiver.shift_shiftAll, ← Receiver.shift_shiftAll, ih]

theorem Receiver.shift_eq (d : ChainBit) (r : Receiver) : r.shift d = r.shiftAll [d] := rfl

/-- One byte sent while a frame is being shifted puts its eight bits into the chain (42 R161). -/
theorem byteOut_receiver (b : Byte) (s : State) (h : Shifting s) :
    (byteOut b s).receiver = s.receiver.shiftAll (byteChain b) := by
  have e7 := bitOut_shifting (b.getLsbD 7) s h
  have e6 := bitOut_shifting (b.getLsbD 6) _ e7
  have e5 := bitOut_shifting (b.getLsbD 5) _ e6
  have e4 := bitOut_shifting (b.getLsbD 4) _ e5
  have e3 := bitOut_shifting (b.getLsbD 3) _ e4
  have e2 := bitOut_shifting (b.getLsbD 2) _ e3
  have e1 := bitOut_shifting (b.getLsbD 1) _ e2
  rw [byteOut_eq, bitOut_receiver _ _ e1, bitOut_receiver _ _ e2, bitOut_receiver _ _ e3, bitOut_receiver _ _ e4,
    bitOut_receiver _ _ e5, bitOut_receiver _ _ e6, bitOut_receiver _ _ e7, bitOut_receiver _ _ h]
  simp only [Receiver.shift_eq (⟨b.getLsbD 7, true⟩), Receiver.shift_shiftAll]
  rfl

theorem byteOut_shifting (b : Byte) (s : State) (h : Shifting s) : Shifting (byteOut b s) := by
  obtain ⟨h1, h2, h3⟩ := h
  simp [Shifting, h1, h2, h3]

/-- With CLK high at its start, the first byte loses its first bit (70 R228). -/
theorem byteOut_receiver_clkHigh (b : Byte) (s : State) (h1 : s.pins.data.dir = .output)
    (h2 : s.pins.clk = { level := true, dir := .output }) (h3 : s.pins.load = { level := false, dir := .output }) :
    (byteOut b s).receiver = s.receiver.shiftAll ((byteChain b).take 7) := by
  have e7 : Shifting (bitOut (b.getLsbD 7) s) := by simp [Shifting, h1, h2, h3]
  have r7 : (bitOut (b.getLsbD 7) s).receiver = s.receiver := by
    simp [bitOut, Receiver.onWrite, Receiver.onClkEdge, Pins.edge, Pins.wire, h1, h2]
  have e6 := bitOut_shifting (b.getLsbD 6) _ e7
  have e5 := bitOut_shifting (b.getLsbD 5) _ e6
  have e4 := bitOut_shifting (b.getLsbD 4) _ e5
  have e3 := bitOut_shifting (b.getLsbD 3) _ e4
  have e2 := bitOut_shifting (b.getLsbD 2) _ e3
  have e1 := bitOut_shifting (b.getLsbD 1) _ e2
  rw [byteOut_eq, bitOut_receiver _ _ e1, bitOut_receiver _ _ e2, bitOut_receiver _ _ e3, bitOut_receiver _ _ e4,
    bitOut_receiver _ _ e5, bitOut_receiver _ _ e6, bitOut_receiver _ _ e7, r7]
  simp only [Receiver.shift_eq (⟨b.getLsbD 6, true⟩), Receiver.shift_shiftAll]
  rfl

/-! ### The latch -/

/-- The wire-word rule of a latched word. -/
def wordRule (w : WireWord) : Controller → Option Controller := wireRule (wireOpcode w) (wireData w)

@[simp] theorem perform_chain (k : Position) (rule : Controller → Option Controller) (r : Receiver) :
    (r.perform k rule).chain = r.chain := by
  unfold Receiver.perform; split <;> rfl

@[simp] theorem perform_latching (k : Position) (rule : Controller → Option Controller) (r : Receiver) :
    (r.perform k rule).latching = r.latching.erase k := by
  unfold Receiver.perform; split <;> rfl

/-- A rule with an answer changes one controller. -/
theorem perform_some {k : Position} {rule : Controller → Option Controller} {r : Receiver} {c : Controller}
    (h : rule r.controllers[k] = some c) :
    r.perform k rule = { r with controllers := r.controllers.set k c, latching := r.latching.erase k } := by
  unfold Receiver.perform; rw [h]

/-- A rule without an answer leaves one controller unknown (42 R178). -/
theorem perform_none {k : Position} {rule : Controller → Option Controller} {r : Receiver}
    (h : rule r.controllers[k] = none) :
    r.perform k rule = { r.forgetController k with latching := r.latching.erase k } := by
  unfold Receiver.perform; rw [h]

/-- A rule that keeps the controller changes no register. -/
theorem perform_same {k : Position} {rule : Controller → Option Controller} {r : Receiver}
    (h : rule r.controllers[k] = some r.controllers[k]) :
    r.perform k rule = { r with latching := r.latching.erase k } := by
  rw [perform_some h]
  simp

theorem latchedWord_congr {r q : Receiver} (h : r.chain = q.chain) (k : Position) :
    r.latchedWord k = q.latchedWord k := by
  unfold Receiver.latchedWord Receiver.opcodeBits Receiver.dataBits; rw [h]

theorem commit_word {r : Receiver} {k : Position} {w : WireWord} (h : r.latchedWord k = some w) :
    r.commit k = r.perform k (wordRule w) := by
  unfold Receiver.commit; rw [h]; rfl

theorem commit_unknown {r : Receiver} {k : Position} (h : r.latchedWord k = none) :
    r.commit k = r.perform k (reservedRule 0) := by
  unfold Receiver.commit; rw [h]

@[simp] theorem commit_chain (k : Position) (r : Receiver) : (r.commit k).chain = r.chain := by
  unfold Receiver.commit; split <;> simp

@[simp] theorem commit_latching (k : Position) (r : Receiver) : (r.commit k).latching = r.latching.erase k := by
  unfold Receiver.commit; split <;> simp

theorem positions_eq : positions = [0, 1] := by decide

/-- The latch as its two controllers. -/
theorem latch_eq (r : Receiver) : r.latch = ({ r with latching := [0, 1] }.commit 0).commit 1 := by
  unfold Receiver.latch; rw [positions_eq]; rfl

@[simp] theorem latch_chain (r : Receiver) : r.latch.chain = r.chain := by simp [latch_eq]
@[simp] theorem latch_latching (r : Receiver) : r.latch.latching = [] := by simp [latch_eq]

/-! ### A whole transmission -/

/-- The chain right after a whole frame (42 R163). -/
def frameChain (c : Position) (opcode data : Byte) : List ChainBit :=
  byteChain (frameByte c opcode data 0) ++ byteChain (frameByte c opcode data 1) ++
    byteChain (frameByte c opcode data 2) ++ byteChain (frameByte c opcode data 3)

/-- Each controller finds its own word in the chain (42 R163). -/
theorem latchedWord_bytes (o0 d0 o1 d1 : Byte) (r : Receiver)
    (h : r.chain = byteChain o0 ++ byteChain d0 ++ byteChain o1 ++ byteChain d1) (k : Position) :
    r.latchedWord k = some (if k = 0 then packWire d0 o0 else packWire d1 o1) := by
  unfold Receiver.latchedWord Receiver.opcodeBits Receiver.dataBits
  rw [h]
  rcases position_cases k with rfl | rfl
  · show (if knownByte (byteChain o0) && (knownByte (byteChain d0) || _) then
      some (packWire (byteOfBits (byteChain d0)) (byteOfBits (byteChain o0))) else none) = _
    simp
  · show (if knownByte (byteChain o1) && (knownByte (byteChain d1) || _) then
      some (packWire (byteOfBits (byteChain d1)) (byteOfBits (byteChain o1))) else none) = _
    simp

theorem latchedWord_frame (c : Position) (opcode data : Byte) (r : Receiver) (h : r.chain = frameChain c opcode data)
    (k : Position) : r.latchedWord k = some (if k = c then packWire data opcode else 0) := by
  rw [latchedWord_bytes _ _ _ _ r h k]
  rcases position_cases c with rfl | rfl <;> rcases position_cases k with rfl | rfl <;>
    simp [frameByte] <;> rfl

@[simp] theorem wordRule_zero : wordRule 0 = wNoopRule 0 := rfl

@[simp] theorem wordRule_packWire (data opcode : Byte) : wordRule (packWire data opcode) = wireRule opcode data := by
  simp [wordRule]

/-- A latch of a whole frame: the addressed controller performs the word, every other one the no-op (42 R163). -/
theorem latch_frame (c : Position) (opcode data : Byte) (r : Receiver) (h : r.chain = frameChain c opcode data) :
    r.latch = { r.perform c (wireRule opcode data) with latching := [] } := by
  have noop (q : Receiver) (k : Position) : q.perform k (wordRule 0) = { q with latching := q.latching.erase k } :=
    perform_same rfl
  rw [latch_eq]
  rcases position_cases c with rfl | rfl
  · rw [commit_word (k := 0) (w := packWire data opcode) (by exact latchedWord_frame 0 opcode data _ h 0),
      commit_word (k := 1) (w := 0) (by exact latchedWord_frame 0 opcode data _ (by simpa using h) 1), noop,
      wordRule_packWire]
    unfold Receiver.perform
    split <;> simp_all [Receiver.forgetController]
  · rw [commit_word (k := 0) (w := 0) (by exact latchedWord_frame 1 opcode data _ h 0), noop,
      commit_word (k := 1) (w := packWire data opcode) (by exact latchedWord_frame 1 opcode data _ h 1),
      wordRule_packWire]
    unfold Receiver.perform
    split <;> simp_all [Receiver.forgetController]

/-- What the controllers make of a transmission that begins with the lines idle (42 R163). -/
theorem frameSent_receiver (c : Position) (opcode data : Byte) (s : State) (h : LinesIdle s) :
    (frameSent c opcode data s).receiver =
      { ({ s.receiver with chain := frameChain c opcode data }.perform c (wireRule opcode data)) with
        latching := [] } := by
  obtain ⟨h1, h2, h3⟩ := h
  generalize hs : ({ s with frame := frameMemory c opcode data s.frame } : State) = s0
  have r0 : (pinWrite .load false s0).receiver = s.receiver := by
    subst hs; simp [Receiver.onWrite, Receiver.onLoadEdge, Pins.edge, Pins.wire, h3]
  have e0 : Shifting (pinWrite .load false s0) := by subst hs; simp [Shifting, h1, h2, h3]
  have e3 := byteOut_shifting (frameByte c opcode data 3) _ e0
  have e2 := byteOut_shifting (frameByte c opcode data 2) _ e3
  have e1 := byteOut_shifting (frameByte c opcode data 1) _ e2
  have e := byteOut_shifting (frameByte c opcode data 0) _ e1
  rw [frameSent, sendBytes, hs, pinWrite_receiver]
  simp only [Receiver.onWrite, Receiver.onLoadEdge, Pins.edge, Pins.wire, Pins.get_load, e.2.2]
  rw [byteOut_receiver _ _ e1, byteOut_receiver _ _ e2, byteOut_receiver _ _ e3, byteOut_receiver _ _ e0, r0,
    Receiver.shiftAll_shiftAll, Receiver.shiftAll_shiftAll, Receiver.shiftAll_shiftAll]
  exact latch_frame c opcode data { s.receiver with chain := frameChain c opcode data } rfl

end Sys2Proof.Machine
end

