-- ==== Sys2Proof/Laws/Manager.lean ====
section
/-!
SUPPORT. Laws/Manager: the sub-operations of the Display State Manager always complete, and the state each leaves.
-/

namespace Sys2Proof.Machine

/-- A check holds exactly for an integer of the range, and then answers it. -/
theorem checked_some {bound : Nat} {x : Int} (h : 0 ≤ x ∧ x < bound) : checked bound x = some ⟨x.toNat, by omega⟩ := by
  unfold checked; rw [dif_pos h]

theorem checked_none {bound : Nat} {x : Int} (h : ¬ (0 ≤ x ∧ x < bound)) : checked bound x = none := by
  unfold checked; rw [dif_neg h]

/-- A check answers the integer it was given. -/
@[simp] theorem checked_natCast {bound : Nat} (n : Fin bound) : checked bound ((n.val : Nat) : Int) = some n := by
  rw [checked_some ⟨by omega, by have := n.isLt; omega⟩]
  simp

@[simp] theorem controllerOf_natCast (c : Position) : controllerOf ((c.val : Nat) : Int) = some c := checked_natCast c

theorem controllerOf_none {x : Int} (h : ¬ InChain x) : controllerOf x = none :=
  checked_none h

/-- With every controller initialised a command is not turned away (70 R223). -/
theorem anyUninit_of_active {s : State} (h : Active s) : s.anyUninit = false := by
  unfold State.anyUninit
  rw [List.any_eq_false]
  intro m hm
  obtain ⟨i, hi, rfl⟩ := Vector.mem_iff_getElem.mp (Vector.mem_toList_iff.mp hm)
  simpa using h ⟨i, hi⟩

theorem active_of_anyUninit {s : State} (h : s.anyUninit = false) : Active s := by
  unfold State.anyUninit at h
  rw [List.any_eq_false] at h
  intro c
  have := h s.mode[c.val] (by simp)
  simpa using this

theorem whenActive_of_active {s : State} (h : Active s) (body : Host.Outcome State Fault Refusal) :
    whenActive s body = body := by
  rw [whenActive, anyUninit_of_active h]; rfl

@[simp] theorem finish_ok (s : State) : finish (.ok s) = .next s.advance := rfl

/-- A transmission as a command of its own, as the claims describe it (40 R114). -/
theorem transmitted_frameSent (c : Position) (opcode data : Byte) (s : State) :
    Transmitted s (frameSent c opcode data s).advance c opcode data := by
  refine ⟨by simp, ?_, ⟨by simp, by simp, by simp⟩, by simp, by simp⟩
  intro i hi
  simpa using frameSent_frameHolds c opcode data s i hi

/-- What the controllers make of it, for a word with a rule (42 R163). -/
theorem received_frameSent (c : Position) (opcode data : Byte) (s : State) (hl : LinesIdle s) (after : Controller)
    (h : wireRule opcode data s.receiver.controllers[c] = some after) :
    Received s (frameSent c opcode data s).advance c after := by
  constructor
  · simp only [State.advance_receiver, frameSent_receiver c opcode data s hl]
    rw [perform_some (c := after) (by simpa using h)]
  · simp only [State.advance_receiver, frameSent_receiver c opcode data s hl]

/-- The lines are idle after a transmission that began with the lines idle (70 R233). -/
theorem linesIdle_frameSent (c : Position) (opcode data : Byte) {s : State} (h : LinesIdle s) :
    LinesIdle (frameSent c opcode data s) := by
  obtain ⟨h1, h2, h3⟩ := h
  simp [LinesIdle, h1, h2, h3]

/-- The STATUS address of a controller and a row is inside the space (20_memory R50, R59). -/
theorem statusAddress_lt (c : Position) (r : Fin 8) : statusAddress c.val r.val < statusSize := by
  have hc : c.val < 2 := c.isLt
  have hr := r.isLt
  rw [statusSize_eq, statusAddress]; omega

/-- Different controllers and rows have different addresses. -/
theorem statusAddress_inj {c d : Position} {r q : Fin 8} (h : statusAddress c.val r.val = statusAddress d.val q.val) :
    c = d ∧ r = q := by
  have hr := r.isLt
  have hq := q.isLt
  simp only [statusAddress] at h
  exact ⟨by apply Fin.ext; omega, by apply Fin.ext; omega⟩

/-- The state after one row of `clearDisplay`. -/
def rowCleared (c : Position) (r : Fin 8) (s : State) : State :=
  frameSent c (rowOpcode r.val) 0x00 { s with status := s.status.write (statusAddress c.val r.val) 0x00 }

theorem clearRow_ok (c : Position) (r : Fin 8) (s : State) : clearRow c.val s r.val = .ok (rowCleared c r s) := by
  rw [clearRow, statusWrite, if_pos (statusAddress_lt c r), ok_bind, transmitFrame_ok]
  rfl

/-- The state after `clearDisplay`. -/
def rowsCleared (c : Position) (s : State) : State :=
  rowCleared c 7 (rowCleared c 6 (rowCleared c 5 (rowCleared c 4 (rowCleared c 3 (rowCleared c 2 (rowCleared c 1
    (rowCleared c 0 s)))))))

/-- `clearDisplay` with an index in range always completes (41 R140). -/
theorem clearRows_ok (c : Position) (s : State) : clearRows c.val s = .ok (rowsCleared c s) := by
  have row (r : Fin 8) (n : Nat) (h : n = r.val) (t : State) : clearRow c.val t n = .ok (rowCleared c r t) := by
    subst h; exact clearRow_ok c r t
  rw [clearRows, List.foldlM_cons, row 0 0 rfl, ok_bind, List.foldlM_cons, row 1 1 rfl, ok_bind, List.foldlM_cons,
    row 2 2 rfl, ok_bind, List.foldlM_cons, row 3 3 rfl, ok_bind, List.foldlM_cons, row 4 4 rfl, ok_bind,
    List.foldlM_cons, row 5 5 rfl, ok_bind, List.foldlM_cons, row 6 6 rfl, ok_bind, List.foldlM_cons, row 7 7 rfl,
    ok_bind]
  rfl

/-- The state after `setLed` with valid operands. -/
def ledWritten (c : Position) (row column : Fin 8) (state : Bool) (s : State) : State :=
  frameSent c (rowOpcode row.val) (ledByte column state (s.status.read (statusAddress c.val row.val)))
    { s with
      status :=
        s.status.write (statusAddress c.val row.val)
          (ledByte column state (s.status.read (statusAddress c.val row.val))) }

/-- `setLed` with valid operands always completes (41 R142). -/
theorem ledWrite_ok (c : Position) (row column : Fin 8) (state : Bool) (s : State) :
    ledWrite c.val row.val column state s = .ok (ledWritten c row column state s) := by
  rw [ledWrite, statusRead, if_pos (statusAddress_lt c row), ok_bind, statusWrite, if_pos (statusAddress_lt c row),
    ok_bind, transmitFrame_ok]
  rfl

/-- The state after the six steps of `initialize` for one controller. -/
def controllerInitialised (c : Position) (s : State) : State :=
  setMode c .activeOn (frameSent c 12 1 (frameSent c 10 (dataByte Config.initIntensity.val)
    (rowsCleared c (frameSent c 9 Config.decodeOff (frameSent c 11 7 (frameSent c 15 0 s))))))

theorem initController_ok (c : Position) (s : State) : initController s c = .ok (controllerInitialised c s) := by
  rw [initController, transmitFrame_ok, ok_bind, transmitFrame_ok, ok_bind, transmitFrame_ok, ok_bind, clearRows_ok,
    ok_bind, transmitFrame_ok, ok_bind, transmitFrame_ok, ok_bind]
  rfl

/-- `initialize` completes in every state (41 R131). -/
theorem execInitialise_eq (s : State) :
    execInitialise s =
      .next (controllerInitialised 1 (controllerInitialised 0 (configurePins s))).advance := by
  rw [execInitialise, positions_eq, List.foldlM_cons, initController_ok, ok_bind, List.foldlM_cons, initController_ok,
    ok_bind]
  rfl

end Sys2Proof.Machine
end

