-- ==== Sys2Proof/Laws/Block.lean ====
section
/-!
SUPPORT. Laws/Block: the idle lines through every sub-operation (70 R233), and that the block's own fields do not depend on
the controllers (60 R192).
-/

namespace Sys2Proof.Machine

/-! ### The lines stay idle -/

@[simp] theorem linesIdle_setStatus (m : Memory) (s : State) : LinesIdle { s with status := m } = LinesIdle s := rfl
@[simp] theorem linesIdle_advance (s : State) : LinesIdle s.advance = LinesIdle s := rfl
@[simp] theorem linesIdle_setMode (c : Position) (m : Mode) (s : State) : LinesIdle (setMode c m s) = LinesIdle s := rfl

theorem linesIdle_bitOut (v : Bool) {s : State} (h : LinesIdle s) : LinesIdle (bitOut v s) := by
  obtain ⟨h1, h2, h3⟩ := h
  simp [LinesIdle, h1, h2, h3]

theorem linesIdle_byteOut (b : Byte) {s : State} (h : LinesIdle s) : LinesIdle (byteOut b s) := by
  obtain ⟨h1, h2, h3⟩ := h
  simp [LinesIdle, h1, h2, h3]

theorem linesIdle_rowCleared (c : Position) (r : Fin 8) {s : State} (h : LinesIdle s) :
    LinesIdle (rowCleared c r s) := by
  unfold rowCleared
  apply linesIdle_frameSent
  rw [linesIdle_setStatus]
  exact h

theorem linesIdle_rowsCleared (c : Position) {s : State} (h : LinesIdle s) : LinesIdle (rowsCleared c s) := by
  unfold rowsCleared
  iterate 8 apply linesIdle_rowCleared
  exact h

theorem linesIdle_ledWritten (c : Position) (row column : Fin 8) (state : Bool) {s : State} (h : LinesIdle s) :
    LinesIdle (ledWritten c row column state s) := by
  unfold ledWritten
  apply linesIdle_frameSent
  rw [linesIdle_setStatus]
  exact h

/-- The three pins driven as outputs. -/
def Driven (s : State) : Prop := s.pins.data.dir = .output ∧ s.pins.clk.dir = .output ∧ s.pins.load.dir = .output

theorem LinesIdle.driven {s : State} (h : LinesIdle s) : Driven s := ⟨h.1, by rw [h.2.1], by rw [h.2.2]⟩

theorem driven_configurePins (s : State) : Driven (configurePins s) := ⟨rfl, rfl, rfl⟩

/-- A transmission on driven lines leaves them idle, whatever their levels were. -/
theorem linesIdle_frameSent_of_driven (c : Position) (opcode data : Byte) {s : State} (h : Driven s) :
    LinesIdle (frameSent c opcode data s) := by
  obtain ⟨h1, h2, h3⟩ := h
  simp [LinesIdle, h1, h2, h3]

theorem linesIdle_controllerInitialised (c : Position) {s : State} (h : Driven s) :
    LinesIdle (controllerInitialised c s) := by
  unfold controllerInitialised
  rw [linesIdle_setMode]
  apply linesIdle_frameSent
  apply linesIdle_frameSent
  apply linesIdle_rowsCleared
  apply linesIdle_frameSent
  apply linesIdle_frameSent
  exact linesIdle_frameSent_of_driven _ _ _ h

/-! ### The block alone -/

/-- Two states have the same block exactly when all fields but `receiver` agree. -/
theorem sameBlock_iff {s t : State} :
    SameBlock s t ↔ s.status = t.status ∧ s.frame = t.frame ∧ s.pins = t.pins ∧ s.mode = t.mode ∧ s.cp = t.cp ∧
      s.trace = t.trace ∧ s.program = t.program := by
  obtain ⟨s1, s2, s3, s4, s5, s6, s7, s8⟩ := s
  obtain ⟨t1, t2, t3, t4, t5, t6, t7, t8⟩ := t
  simp [SameBlock, State.trace]

theorem sameBlock_frameSent (c : Position) (opcode data : Byte) {s t : State} (h : SameBlock s t) :
    SameBlock (frameSent c opcode data s) (frameSent c opcode data t) := by
  rw [sameBlock_iff] at h ⊢
  obtain ⟨h1, h2, h3, h4, h5, h6, h7⟩ := h
  simp [h1, h2, h3, h4, h5, h6, h7]

theorem sameBlock_setStatus (m : Memory) {s t : State} (h : SameBlock s t) :
    SameBlock { s with status := m } { t with status := m } := by
  rw [sameBlock_iff] at h ⊢
  exact ⟨rfl, h.2⟩

theorem sameBlock_setMode (c : Position) (m : Mode) {s t : State} (h : SameBlock s t) :
    SameBlock (setMode c m s) (setMode c m t) := by
  rw [sameBlock_iff] at h ⊢
  obtain ⟨h1, h2, h3, h4, h5, h6, h7⟩ := h
  exact ⟨h1, h2, h3, by rw [setMode_mode, setMode_mode, h4], h5, h6, h7⟩

theorem sameBlock_advance {s t : State} (h : SameBlock s t) : SameBlock s.advance t.advance := by
  rw [sameBlock_iff] at h ⊢
  obtain ⟨h1, h2, h3, h4, h5, h6, h7⟩ := h
  exact ⟨h1, h2, h3, h4, by rw [State.advance_cp, State.advance_cp, h5], h6, h7⟩

theorem SameBlock.status {s t : State} (h : SameBlock s t) : s.status = t.status := (sameBlock_iff.mp h).1

theorem sameBlock_rowCleared (c : Position) (r : Fin 8) {s t : State} (h : SameBlock s t) :
    SameBlock (rowCleared c r s) (rowCleared c r t) := by
  unfold rowCleared
  rw [h.status]
  exact sameBlock_frameSent _ _ _ (sameBlock_setStatus _ h)

theorem sameBlock_rowsCleared (c : Position) {s t : State} (h : SameBlock s t) :
    SameBlock (rowsCleared c s) (rowsCleared c t) := by
  unfold rowsCleared
  iterate 8 apply sameBlock_rowCleared
  exact h

theorem sameBlock_ledWritten (c : Position) (row column : Fin 8) (state : Bool) {s t : State} (h : SameBlock s t) :
    SameBlock (ledWritten c row column state s) (ledWritten c row column state t) := by
  unfold ledWritten
  rw [h.status]
  exact sameBlock_frameSent _ _ _ (sameBlock_setStatus _ h)

theorem sameBlock_controllerInitialised (c : Position) {s t : State} (h : SameBlock s t) :
    SameBlock (controllerInitialised c s) (controllerInitialised c t) := by
  unfold controllerInitialised
  apply sameBlock_setMode
  apply sameBlock_frameSent
  apply sameBlock_frameSent
  apply sameBlock_rowsCleared
  apply sameBlock_frameSent
  apply sameBlock_frameSent
  apply sameBlock_frameSent
  exact h

theorem sameBlock_configurePins {s t : State} (h : SameBlock s t) :
    SameBlock (configurePins s) (configurePins t) := by
  rw [sameBlock_iff] at h ⊢
  obtain ⟨h1, h2, h3, h4, h5, h6, h7⟩ := h
  simp [configurePins, h1, h2, h3, h4, h5, h6, h7]

end Sys2Proof.Machine
end

