-- ==== Sys2Proof/Laws/Initialise.lean ====
section
/-!
SUPPORT. Laws/Initialise: what sequences of register writes leave in the controllers: `clearDisplay`, and `initialize` from
any state whatever (41 R131, R140; 70 R225, R228).
-/

namespace Sys2Proof.Machine

/-- The controllers are those of `base`, with controller `c` at `x`, and none owes a word. -/
def Holds (s : State) (base : Vector Controller Config.numControllers) (c : Position) (x : Controller) : Prop :=
  s.receiver.controllers = base.set c x ∧ s.receiver.latching = []

/-- A word with a rule takes controller `c` from `x` to `y`, and leaves the others (42 R163). -/
theorem holds_frameSent {s : State} {base : Vector Controller Config.numControllers} {c : Position} {x y : Controller}
    (opcode data : Byte) (hl : LinesIdle s) (h : s.receiver.controllers = base.set c x)
    (hr : wireRule opcode data x = some y) : Holds (frameSent c opcode data s) base c y := by
  have hx : s.receiver.controllers[c] = x := by simp [h]
  constructor
  · rw [frameSent_receiver c opcode data s hl, perform_some (c := y) (by simpa [hx] using hr)]
    simp [h]
  · rw [frameSent_receiver c opcode data s hl]

/-- The rule of a row's word. -/
theorem wireRule_rowOpcode (r : Fin 8) (data : Byte) (x : Controller) :
    wireRule (rowOpcode r.val) data x = some { x with digit := x.digit.set r (knownReg data) } := by
  fin_cases r <;> rfl

theorem holds_rowCleared {s : State} {base : Vector Controller Config.numControllers} {c : Position} {x : Controller}
    (r : Fin 8) (hl : LinesIdle s) (h : s.receiver.controllers = base.set c x) :
    Holds (rowCleared c r s) base c { x with digit := x.digit.set r (knownReg 0) } := by
  unfold rowCleared
  refine holds_frameSent _ _ ?_ ?_ (wireRule_rowOpcode r 0 x)
  · rw [linesIdle_setStatus]; exact hl
  · exact h

/-- Eight cleared rows. -/
theorem digits_cleared (d : Vector ShadowReg 8) :
    (((((((d.set 0 (knownReg 0)).set 1 (knownReg 0)).set 2 (knownReg 0)).set 3 (knownReg 0)).set 4
      (knownReg 0)).set 5 (knownReg 0)).set 6 (knownReg 0)).set 7 (knownReg 0) =
      Vector.replicate 8 (knownReg 0) := by
  ext i hi
  interval_cases i <;> simp

/-- `clearDisplay` takes all row registers of one controller to zero and changes no other register (41 R140, R141). -/
theorem holds_rowsCleared {s : State} {base : Vector Controller Config.numControllers} {c : Position} {x : Controller}
    (hl : LinesIdle s) (h : s.receiver.controllers = base.set c x) :
    Holds (rowsCleared c s) base c { x with digit := Vector.replicate 8 (knownReg 0) } := by
  have l0 := linesIdle_rowCleared c 0 hl
  have l1 := linesIdle_rowCleared c 1 l0
  have l2 := linesIdle_rowCleared c 2 l1
  have l3 := linesIdle_rowCleared c 3 l2
  have l4 := linesIdle_rowCleared c 4 l3
  have l5 := linesIdle_rowCleared c 5 l4
  have l6 := linesIdle_rowCleared c 6 l5
  have all := holds_rowCleared 7 l6 (holds_rowCleared 6 l5 (holds_rowCleared 5 l4 (holds_rowCleared 4 l3
    (holds_rowCleared 3 l2 (holds_rowCleared 2 l1 (holds_rowCleared 1 l0 (holds_rowCleared 0 hl h).1).1).1).1).1).1).1
  rw [← digits_cleared x.digit]
  exact all

/-- The twelve register writes after the first one take controller `c`, not under test, to its initialised registers
(41 R131). -/
theorem holds_controllerInitialised {s : State} {base : Vector Controller Config.numControllers} {c : Position}
    {x : Controller} (hd : Driven s)
    (h : Holds (frameSent c 15 0 s) base c { x with test := knownReg 0 }) :
    Holds (controllerInitialised c s) base c initialisedController := by
  have l0 := linesIdle_frameSent_of_driven c 15 0 hd
  have l1 := linesIdle_frameSent c 11 7 l0
  have l2 := linesIdle_frameSent c 9 Config.decodeOff l1
  have l3 := linesIdle_rowsCleared c l2
  have l4 := linesIdle_frameSent c 10 (dataByte Config.initIntensity.val) l3
  have level : (dataByte Config.initIntensity.val).toNat < 16 := by
    have := Config.initIntensity.isLt
    simp only [dataByte, BitVec.toNat_ofNat]
    omega
  have r4 (y : Controller) : wireRule 10 (dataByte Config.initIntensity.val) y =
      some { y with intensity := knownReg (dataByte Config.initIntensity.val) } := if_pos level
  have r1 (y : Controller) : wireRule 11 7 y = some { y with scanLimit := knownReg 7 } := rfl
  have r2 (y : Controller) : wireRule 9 Config.decodeOff y = some { y with decode := knownReg 0 } := rfl
  have r5 (y : Controller) : wireRule 12 1 y = some { y with shutdown := knownReg 1 } := rfl
  have h1 := holds_frameSent 11 7 l0 h.1 (r1 _)
  have h2 := holds_frameSent 9 Config.decodeOff l1 h1.1 (r2 _)
  have h3 := holds_rowsCleared l2 h2.1
  have h4 := holds_frameSent 10 (dataByte Config.initIntensity.val) l3 h3.1 (r4 _)
  have h5 := holds_frameSent 12 1 l4 h4.1 (r5 _)
  unfold controllerInitialised
  unfold Holds
  rw [setMode_receiver]
  exact h5

/-- A latch whose word for controller 0 is whole, and for controller 1 has the no-op opcode, whatever its data
(42 R164, 70 R228). -/
theorem latch_first (opcode data : Byte) (upper : List ChainBit) (r : Receiver)
    (h : r.chain = byteChain opcode ++ byteChain data ++ byteChain 0 ++ upper) :
    r.latch = { r.perform 0 (wireRule opcode data) with latching := [] } := by
  have w0 (q : Receiver) (hq : q.chain = r.chain) : q.latchedWord 0 = some (packWire data opcode) := by
    unfold Receiver.latchedWord Receiver.opcodeBits Receiver.dataBits
    rw [hq, h]
    show (if knownByte (byteChain opcode) && (knownByte (byteChain data) || _) then
      some (packWire (byteOfBits (byteChain data)) (byteOfBits (byteChain opcode))) else none) = _
    simp
  have w1 (q : Receiver) (hq : q.chain = r.chain) : ∃ d, q.latchedWord 1 = some (packWire d 0) := by
    unfold Receiver.latchedWord Receiver.opcodeBits Receiver.dataBits
    rw [hq, h]
    refine ⟨byteOfBits (upper.take 8), ?_⟩
    show (if knownByte (byteChain 0) && (_ || byteOfBits (byteChain 0) == 0) then
      some (packWire (byteOfBits (upper.take 8)) (byteOfBits (byteChain 0))) else none) = _
    simp
  rw [latch_eq, commit_word (w0 { r with latching := [0, 1] } rfl), wordRule_packWire]
  obtain ⟨d, hd⟩ := w1 ({ r with latching := [0, 1] }.perform 0 (wireRule opcode data)) (by simp)
  rw [commit_word hd, wordRule_packWire, perform_same (rule := wireRule 0 d) rfl]
  unfold Receiver.perform
  split <;> simp_all [Receiver.forgetController]

/-- The first transmission after reset goes to controller 0, and reaches it also where CLK stands high at its first bit:
the bit that is lost belongs to the no-op word of controller 1 (70 R228). -/
theorem frameSent_receiver_first (opcode data : Byte) (s : State) (h : Driven s) (hl : s.pins.load.level = true) :
    ∃ chain, (frameSent 0 opcode data s).receiver =
      { ({ s.receiver with chain := chain }.perform 0 (wireRule opcode data)) with latching := [] } := by
  obtain ⟨h1, h2, h3⟩ := h
  have load : s.pins.load = { level := true, dir := .output } := by
    rw [← hl, ← h3]
  cases hc : s.pins.clk.level with
  | false => exact ⟨_, frameSent_receiver 0 opcode data s ⟨h1, by rw [← hc, ← h2], load⟩⟩
  | true =>
    have clk : s.pins.clk = { level := true, dir := .output } := by rw [← hc, ← h2]
    generalize hs : ({ s with frame := frameMemory 0 opcode data s.frame } : State) = s0
    have r0 : (pinWrite .load false s0).receiver = s.receiver := by
      subst hs; simp [Receiver.onWrite, Receiver.onLoadEdge, Pins.edge, Pins.wire, load]
    have p1 : (pinWrite .load false s0).pins.data.dir = .output := by subst hs; simpa using h1
    have p2 : (pinWrite .load false s0).pins.clk = { level := true, dir := .output } := by subst hs; simpa using clk
    have p3 : (pinWrite .load false s0).pins.load = { level := false, dir := .output } := by subst hs; simp [load]
    have e3 : Shifting (byteOut (frameByte 0 opcode data 3) (pinWrite .load false s0)) := by
      simp only [Shifting, byteOut_pins, p1, p2, p3, and_self]
    have e2 := byteOut_shifting (frameByte 0 opcode data 2) _ e3
    have e1 := byteOut_shifting (frameByte 0 opcode data 1) _ e2
    have e := byteOut_shifting (frameByte 0 opcode data 0) _ e1
    rw [frameSent, sendBytes, hs, pinWrite_receiver]
    simp only [Receiver.onWrite, Receiver.onLoadEdge, Pins.edge, Pins.wire, Pins.get_load, e.2.2]
    rw [byteOut_receiver _ _ e1, byteOut_receiver _ _ e2, byteOut_receiver _ _ e3,
      byteOut_receiver_clkHigh _ _ p1 p2 p3, r0, Receiver.shiftAll_shiftAll, Receiver.shiftAll_shiftAll,
      Receiver.shiftAll_shiftAll]
    refine ⟨_, latch_first opcode data ((byteChain 0).take 7 ++ s.receiver.chain.take 1) _ ?_⟩
    rfl

end Sys2Proof.Machine
end

