-- ==== Sys2Proof/Laws/Keeps.lean ====
section
/-!
SUPPORT. Laws/Keeps: a property of states that every named operation keeps is kept by every instruction and every step.
-/

namespace Sys2Proof.Machine

/-- Every named operation keeps `P`. -/
structure Kept (P : State → Prop) : Prop where
  mode : ∀ p s, P s → P (pinMode p s)
  write : ∀ p v s, P s → P (pinWrite p v s)
  status : ∀ i v s, i < statusSize → P s → P { s with status := s.status.write i v }
  frame : ∀ i v s, i < frameSize → P s → P { s with frame := s.frame.write i v }
  setMode : ∀ c m s, P s → P (setMode c m s)
  advance : ∀ s, P s → P s.advance
  perform : ∀ k rule s, P s → P { s with receiver := s.receiver.perform k rule }

variable {P : State → Prop}

theorem Kept.bitOut (h : Kept P) (v : Bool) {s : State} (hs : P s) : P (bitOut v s) :=
  h.write _ _ _ (h.write _ _ _ (h.write _ _ _ hs))

theorem Kept.byteOut (h : Kept P) (b : Byte) {s : State} (hs : P s) : P (byteOut b s) := by
  rw [byteOut_eq]
  exact h.bitOut _ (h.bitOut _ (h.bitOut _ (h.bitOut _ (h.bitOut _ (h.bitOut _ (h.bitOut _ (h.bitOut _ hs)))))))

theorem Kept.frameSent (h : Kept P) (c : Position) (opcode data : Byte) {s : State} (hs : P s) :
    P (frameSent c opcode data s) := by
  have hc : c.val < 2 := c.isLt
  have size : frameSize = 4 := rfl
  have zero : ∀ i v s, i < 4 → P s → P { s with frame := s.frame.write i v } := fun i v s hi => h.frame i v s hi
  have built : P { s with frame := frameMemory c opcode data s.frame } :=
    zero (2 * c.val + 1) data _ (by omega) (zero (2 * c.val) opcode _ (by omega) (zero 3 0 _ (by omega)
      (zero 2 0 _ (by omega) (zero 1 0 _ (by omega) (zero 0 0 _ (by omega) hs)))))
  exact h.write _ _ _ (h.byteOut _ (h.byteOut _ (h.byteOut _ (h.byteOut _ (h.write _ _ _ built)))))

theorem Kept.rowCleared (h : Kept P) (c : Position) (r : Fin 8) {s : State} (hs : P s) : P (rowCleared c r s) :=
  h.frameSent _ _ _ (h.status _ _ _ (statusAddress_lt c r) hs)

theorem Kept.rowsCleared (h : Kept P) (c : Position) {s : State} (hs : P s) : P (rowsCleared c s) :=
  h.rowCleared _ _ (h.rowCleared _ _ (h.rowCleared _ _ (h.rowCleared _ _ (h.rowCleared _ _ (h.rowCleared _ _
    (h.rowCleared _ _ (h.rowCleared _ _ hs)))))))

theorem Kept.ledWritten (h : Kept P) (c : Position) (row column : Fin 8) (state : Bool) {s : State} (hs : P s) :
    P (ledWritten c row column state s) :=
  h.frameSent _ _ _ (h.status _ _ _ (statusAddress_lt c row) hs)

theorem Kept.controllerInitialised (h : Kept P) (c : Position) {s : State} (hs : P s) :
    P (controllerInitialised c s) :=
  h.setMode _ _ _ (h.frameSent _ _ _ (h.frameSent _ _ _ (h.rowsCleared _ (h.frameSent _ _ _ (h.frameSent _ _ _
    (h.frameSent _ _ _ hs))))))

/-- The outcome of a meaning keeps `P`. -/
def KeptBy (P : State → Prop) (o : Host.Outcome State Fault Refusal) : Prop := ∀ t, o = .next t → P t

theorem keptBy_next {t : State} (h : P t) : KeptBy P (.next t) := by
  intro u hu; cases hu; exact h

theorem keptBy_refused (r : Refusal) : KeptBy P (.refused r) := fun _ h => by cases h

theorem keptBy_whenActive {s : State} {o : Host.Outcome State Fault Refusal} (h : KeptBy P o) :
    KeptBy P (whenActive s o) := by
  unfold whenActive; split
  · exact keptBy_refused _
  · exact h

/-- Every instruction keeps what the named operations keep. -/
theorem Kept.exec (h : Kept P) (i : Instr) {s : State} (hs : P s) : KeptBy P (exec i s) := by
  have silentKept : KeptBy P (silent s) := keptBy_next (h.advance _ hs)
  have sent (c : Position) (opcode data : Byte) : KeptBy P (finish (transmitFrame c.val opcode data s)) := by
    rw [transmitFrame_ok]; exact keptBy_next (h.advance _ (h.frameSent _ _ _ hs))
  have word (k : Position) (rule : Controller → Option Controller) : KeptBy P (performWire k rule s) :=
    keptBy_next (h.perform _ _ _ hs)
  cases i with
  | writeBit v => exact keptBy_whenActive (keptBy_next (h.advance _ (h.bitOut v hs)))
  | writeByte b => exact keptBy_whenActive (keptBy_next (h.advance _ (h.byteOut b hs)))
  | transmit c opcode data =>
    refine keptBy_whenActive ?_
    split
    · exact sent _ _ _
    · exact keptBy_refused _
  | initialise =>
    show KeptBy P (execInitialise s)
    rw [execInitialise_eq]
    exact keptBy_next (h.advance _ (h.controllerInitialised _ (h.controllerInitialised _
      (h.write _ _ _ (h.mode _ _ (h.mode _ _ (h.mode _ _ hs)))))))
  | shutdown c e =>
    refine keptBy_whenActive ?_
    split
    · rw [transmitFrame_ok]; exact keptBy_next (h.advance _ (h.setMode _ _ _ (h.frameSent _ _ _ hs)))
    · exact silentKept
  | setIntensity c l =>
    refine keptBy_whenActive ?_
    split
    · exact sent _ _ _
    · exact silentKept
  | setScanLimit c l =>
    refine keptBy_whenActive ?_
    split
    · exact sent _ _ _
    · exact silentKept
  | setDecodeMode c m =>
    refine keptBy_whenActive ?_
    split
    · exact sent _ _ _
    · exact silentKept
  | clearDisplay c =>
    refine keptBy_whenActive ?_
    split
    · rw [clearRows_ok]; exact keptBy_next (h.advance _ (h.rowsCleared _ hs))
    · exact silentKept
  | setLed c r k v =>
    refine keptBy_whenActive ?_
    split
    · rw [ledWrite_ok]; exact keptBy_next (h.advance _ (h.ledWritten _ _ _ _ hs))
    · exact silentKept
  | displayTest c e =>
    refine keptBy_whenActive ?_
    split
    · exact sent _ _ _
    · exact silentKept
  | wNoop k d => exact word k _
  | wDigit0 k d => exact word k _
  | wDigit1 k d => exact word k _
  | wDigit2 k d => exact word k _
  | wDigit3 k d => exact word k _
  | wDigit4 k d => exact word k _
  | wDigit5 k d => exact word k _
  | wDigit6 k d => exact word k _
  | wDigit7 k d => exact word k _
  | wDecodeMode k d => exact word k _
  | wIntensity k d => exact word k _
  | wScanLimit k d => exact word k _
  | wShutdown k d => exact word k _
  | wDisplayTest k d => exact word k _

/-- Every step keeps what the named operations keep. -/
theorem Kept.step (h : Kept P) {s : State} (hs : P s) : KeptBy P (step s) := by
  unfold Machine.step
  split
  · split
    · exact h.exec _ hs
    · exact keptBy_next (h.perform _ _ _ hs)
  · split
    · split
      · exact h.exec _ hs
      · exact keptBy_next (h.advance _ hs)
    · exact keptBy_next hs

end Sys2Proof.Machine
end

