-- ==== Sys2Proof/Laws/Light.lean ====
section
/-!
SUPPORT. Laws/Light: the lit/dark function where a controller is on, not under test, not decoding and scanning every row
(42 R179 case 7).
-/

namespace Sys2Proof.Machine

/-- A controller that shows its rows raw shows the bits of its row registers. -/
theorem light_raw (c : Controller) (r col : Fin 8) (b : Byte) (h1 : c.test = { value := 0, known := true })
    (h2 : c.shutdown = { value := 1, known := true }) (h3 : c.decode = { value := 0, known := true })
    (h4 : c.scanLimit = { value := 7, known := true }) (h5 : c.digit[r] = { value := b, known := true }) :
    c.light r col = if b.getLsbD (7 - col.val) then .lit else .dark := by
  unfold Controller.light litByDecode litByScan litByDigit columnBit Config.decodeOff
  rw [h1, h2, h3, h4, h5]
  simp
  have := r.isLt
  omega

/-- What a controller shows does not depend on its intensity (42 R174). -/
theorem light_intensity (c : Controller) (x : ShadowReg) (r col : Fin 8) :
    Controller.light { c with intensity := x } r col = c.light r col := rfl

end Sys2Proof.Machine
end

