-- ==== Sys2Proof/Laws/PerInstr.lean ====
section
/-!
SUPPORT. Laws/PerInstr: statements made of every instruction as syntax, one lemma per constructor. `EncodesInRow`: the word
an instruction is encoded to spells the row of the opcode map the instruction belongs to (30_encoding R82, R89).
-/

namespace Sys2Proof.Laws

/-- The word of the instruction matches its own row of the opcode map, under the row's mask. -/
def EncodesInRow.Statement (i : Instr) : Prop := (encode i).bits &&& (opcodeRow i).mask = (opcodeRow i).pattern

/-- The low byte of a wire word, seen in the 32 bits the rows compare. -/
theorem wire_row (data opcode : Byte) (p : CmdWord) (h : p = opcode.setWidth 32) :
    (packWire data opcode).setWidth 32 &&& 0x00FF = p := by
  subst h
  refine BitVec.eq_of_getLsbD_eq fun j hj => ?_
  rw [BitVec.getLsbD_and, BitVec.getLsbD_setWidth, BitVec.getLsbD_setWidth, packWire, BitVec.getLsbD_append]
  have mask : ∀ k : Fin 32, (0x00FF : CmdWord).getLsbD k.val = decide (k.val < 8) := by decide
  rw [mask ⟨j, hj⟩]
  by_cases low : j < 8
  · simp [low, hj]
  · simp [low, hj, BitVec.getLsbD_of_ge _ _ (Nat.le_of_not_lt low)]

theorem EncodesInRow.writeBit (value : Bool) : EncodesInRow.Statement (.writeBit value) :=
  packCommand_row _ 15 7 _ false _ 255 _ 255 _ 255 _ _ rfl (by simp [opcodeRow, packCommand])

theorem EncodesInRow.writeByte (byte : Byte) : EncodesInRow.Statement (.writeByte byte) :=
  packCommand_row _ 15 7 _ true _ 255 _ 255 _ 0 _ _ rfl (by simp [opcodeRow, packCommand])

theorem EncodesInRow.transmit (c : Int) (opcode data : Byte) : EncodesInRow.Statement (.transmit c opcode data) :=
  packCommand_row _ 15 7 _ true _ 0 _ 0 _ 0 _ _ rfl (by simp [opcodeRow, packCommand])

theorem EncodesInRow.initialise : EncodesInRow.Statement .initialise :=
  packCommand_row _ 15 7 _ true _ 255 _ 255 _ 255 _ _ rfl (by simp [opcodeRow, packCommand])

theorem EncodesInRow.shutdown (c : Int) (enabled : Bool) : EncodesInRow.Statement (.shutdown c enabled) :=
  packCommand_row _ 15 7 _ false _ 0 _ 255 _ 255 _ _ rfl (by simp [opcodeRow, packCommand])

theorem EncodesInRow.setIntensity (c level : Int) : EncodesInRow.Statement (.setIntensity c level) :=
  packCommand_row _ 15 7 _ true _ 0 _ 0 _ 255 _ _ rfl (by simp [opcodeRow, packCommand])

theorem EncodesInRow.setScanLimit (c limit : Int) : EncodesInRow.Statement (.setScanLimit c limit) :=
  packCommand_row _ 15 7 _ true _ 0 _ 0 _ 255 _ _ rfl (by simp [opcodeRow, packCommand])

theorem EncodesInRow.setDecodeMode (c : Int) (mode : Byte) : EncodesInRow.Statement (.setDecodeMode c mode) :=
  packCommand_row _ 15 7 _ true _ 0 _ 255 _ 0 _ _ rfl (by simp [opcodeRow, packCommand])

theorem EncodesInRow.clearDisplay (c : Int) : EncodesInRow.Statement (.clearDisplay c) :=
  packCommand_row _ 15 7 _ true _ 0 _ 255 _ 255 _ _ rfl (by simp [opcodeRow, packCommand])

theorem EncodesInRow.setLed (c row column : Int) (state : Bool) : EncodesInRow.Statement (.setLed c row column state) :=
  packCommand_row _ 15 7 _ false _ 0 _ 0 _ 0 _ _ rfl (by simp [opcodeRow, packCommand])

theorem EncodesInRow.displayTest (c : Int) (enabled : Bool) : EncodesInRow.Statement (.displayTest c enabled) :=
  packCommand_row _ 15 7 _ false _ 0 _ 255 _ 255 _ _ rfl (by simp [opcodeRow, packCommand])

theorem EncodesInRow.wNoop (k : Position) (data : Byte) : EncodesInRow.Statement (.wNoop k data) :=
  wire_row data _ _ rfl

theorem EncodesInRow.wDigit0 (k : Position) (data : Byte) : EncodesInRow.Statement (.wDigit0 k data) :=
  wire_row data _ _ rfl

theorem EncodesInRow.wDigit1 (k : Position) (data : Byte) : EncodesInRow.Statement (.wDigit1 k data) :=
  wire_row data _ _ rfl

theorem EncodesInRow.wDigit2 (k : Position) (data : Byte) : EncodesInRow.Statement (.wDigit2 k data) :=
  wire_row data _ _ rfl

theorem EncodesInRow.wDigit3 (k : Position) (data : Byte) : EncodesInRow.Statement (.wDigit3 k data) :=
  wire_row data _ _ rfl

theorem EncodesInRow.wDigit4 (k : Position) (data : Byte) : EncodesInRow.Statement (.wDigit4 k data) :=
  wire_row data _ _ rfl

theorem EncodesInRow.wDigit5 (k : Position) (data : Byte) : EncodesInRow.Statement (.wDigit5 k data) :=
  wire_row data _ _ rfl

theorem EncodesInRow.wDigit6 (k : Position) (data : Byte) : EncodesInRow.Statement (.wDigit6 k data) :=
  wire_row data _ _ rfl

theorem EncodesInRow.wDigit7 (k : Position) (data : Byte) : EncodesInRow.Statement (.wDigit7 k data) :=
  wire_row data _ _ rfl

theorem EncodesInRow.wDecodeMode (k : Position) (data : Byte) : EncodesInRow.Statement (.wDecodeMode k data) :=
  wire_row data _ _ rfl

theorem EncodesInRow.wIntensity (k : Position) (data : Byte) : EncodesInRow.Statement (.wIntensity k data) :=
  wire_row data _ _ rfl

theorem EncodesInRow.wScanLimit (k : Position) (data : Byte) : EncodesInRow.Statement (.wScanLimit k data) :=
  wire_row data _ _ rfl

theorem EncodesInRow.wShutdown (k : Position) (data : Byte) : EncodesInRow.Statement (.wShutdown k data) :=
  wire_row data _ _ rfl

theorem EncodesInRow.wDisplayTest (k : Position) (data : Byte) : EncodesInRow.Statement (.wDisplayTest k data) :=
  wire_row data _ _ rfl

end Sys2Proof.Laws
end

