-- ==== Sys2Proof/Laws/Sequences.lean ====
section
/-!
SUPPORT. Laws/Sequences: TRACE and STATUS after the Display State Manager's sub-operations, and which controllers a
performed word leaves alone.
-/

namespace Sys2Proof.Machine

/-! ### What completing a command leaves as it is -/

@[simp] theorem frameHolds_advance (s : State) (c : Position) (opcode data : Byte) :
    FrameHolds s.advance c opcode data = FrameHolds s c opcode data := rfl
@[simp] theorem frameHolds_setMode (m : Mode) (s : State) (k c : Position) (opcode data : Byte) :
    FrameHolds (setMode k m s) c opcode data = FrameHolds s c opcode data := rfl

/-! ### clearDisplay and one controller of initialize -/

@[simp] theorem rowCleared_trace (c : Position) (r : Fin 8) (s : State) :
    (rowCleared c r s).trace = s.trace ++ frameEvents c (rowOpcode r.val) 0x00 := by
  unfold rowCleared
  rw [frameSent_trace]
  rfl

/-- The eight frames of `clearDisplay` (41 R140). -/
theorem rowsCleared_trace (c : Position) (s : State) :
    (rowsCleared c s).trace = s.trace ++
      framesEvents [(c, 1, 0), (c, 2, 0), (c, 3, 0), (c, 4, 0), (c, 5, 0), (c, 6, 0), (c, 7, 0), (c, 8, 0)] := by
  simp only [rowsCleared, rowCleared_trace, framesEvents, List.flatMap_cons, List.flatMap_nil, List.append_assoc,
    List.append_nil]
  rfl

/-- The eight STATUS bytes `clearDisplay` zeroes (41 R140). -/
theorem rowsCleared_status (c : Position) (s : State) (a : Nat) :
    (rowsCleared c s).status.read a = if c.val * 8 ≤ a ∧ a < c.val * 8 + 8 then 0x00 else s.status.read a := by
  simp only [rowsCleared, rowCleared, frameSent_status, Memory.read_write, statusAddress]
  by_cases h : c.val * 8 ≤ a ∧ a < c.val * 8 + 8
  · rw [if_pos h]
    repeat (split; rfl)
    omega
  · rw [if_neg h]
    repeat rw [if_neg (by simp; omega)]

theorem controllerInitialised_trace (c : Position) (s : State) :
    (controllerInitialised c s).trace = s.trace ++ framesEvents (initWrites c) := by
  rw [controllerInitialised, setMode_trace]
  simp only [frameSent_trace, rowsCleared_trace, List.append_assoc]
  simp only [framesEvents, initWrites, List.flatMap_cons, List.flatMap_nil, List.append_nil, List.append_assoc]
  rfl

theorem controllerInitialised_status (c : Position) (s : State) (a : Nat) :
    (controllerInitialised c s).status.read a =
      if c.val * 8 ≤ a ∧ a < c.val * 8 + 8 then 0x00 else s.status.read a := by
  simp only [controllerInitialised, setMode_status, frameSent_status, rowsCleared_status]

/-! ### One controller at a time -/

theorem unknownController_allUnknown (n : Nat) : (unknownController n).AllUnknown := by
  refine ⟨fun r => ?_, rfl, rfl, rfl, rfl, rfl⟩
  fin_cases r <;> rfl

/-- Performing a word leaves the other controllers alone (42 R162). -/
theorem perform_others {k j : Position} (rule : Controller → Option Controller) (r : Receiver) (h : j ≠ k) :
    (r.perform k rule).controllers[j] = r.controllers[j] := by
  have hn : k.val ≠ j.val := fun e => h (Fin.ext e.symm)
  unfold Receiver.perform
  split <;> simp [Receiver.forgetController, Vector.getElem_set_ne, hn]

/-- A rule without an answer leaves its own controller unknown (42 R178). -/
theorem perform_none_own {k : Position} {rule : Controller → Option Controller} {r : Receiver}
    (h : rule r.controllers[k] = none) : (r.perform k rule).controllers[k].AllUnknown := by
  rw [perform_none h]
  simpa [Receiver.forgetController] using unknownController_allUnknown r.fresh

theorem commit_others {k j : Position} (r : Receiver) (h : j ≠ k) : (r.commit k).controllers[j] = r.controllers[j] := by
  unfold Receiver.commit
  split <;> exact perform_others _ _ h

/-- A transmission leaves every controller but the addressed one as it was (42 R163). -/
theorem frameSent_others {c k : Position} (opcode data : Byte) {s : State} (hl : LinesIdle s) (h : k ≠ c) :
    (frameSent c opcode data s).receiver.controllers[k] = s.receiver.controllers[k] := by
  rw [frameSent_receiver c opcode data s hl]
  exact perform_others _ _ h

end Sys2Proof.Machine
end

