-- ==== Sys2Proof/Tests/Slice0.lean ====
section
/-!
SUPPORT. Tests/Slice0: the model's own tests. Expected results are the spec's: 95_test_vectors (its state S0 and its vectors,
by number), 30_encoding R97. `witness_<obligation>` shows values that meet that obligation's hypotheses.
-/

namespace Sys2Proof.Tests

open Sys2Proof.Machine

set_option maxRecDepth 100000

/-! ### Ill-formed instructions: one per check -/

theorem test_illFormed_transmit : ¬ (Instr.transmit (-129) 0 0).WellFormed := by decide
theorem test_illFormed_shutdown : ¬ (Instr.shutdown 128 true).WellFormed := by decide
theorem test_illFormed_setIntensity_controller : ¬ (Instr.setIntensity 128 5).WellFormed := by decide
theorem test_illFormed_setIntensity_level : ¬ (Instr.setIntensity 0 (-129)).WellFormed := by decide
theorem test_illFormed_setScanLimit_controller : ¬ (Instr.setScanLimit (-129) 5).WellFormed := by decide
theorem test_illFormed_setScanLimit_limit : ¬ (Instr.setScanLimit 0 128).WellFormed := by decide
theorem test_illFormed_setDecodeMode : ¬ (Instr.setDecodeMode 128 0).WellFormed := by decide
theorem test_illFormed_clearDisplay : ¬ (Instr.clearDisplay (-129)).WellFormed := by decide
theorem test_illFormed_setLed_controller : ¬ (Instr.setLed 128 0 0 true).WellFormed := by decide
theorem test_illFormed_setLed_row : ¬ (Instr.setLed 0 128 0 true).WellFormed := by decide
theorem test_illFormed_setLed_column : ¬ (Instr.setLed 0 0 (-129) true).WellFormed := by decide
theorem test_illFormed_displayTest : ¬ (Instr.displayTest 300 true).WellFormed := by decide

/-! ### Decoding and encoding: words of 30_encoding R97 and 95 section 2.4, wire words of R80 with R82 -/

/-- A command word and the instruction it stands for, both ways. -/
abbrev spellsCommand (w : CmdWord) (i : Instr) : Prop := decodeCommand w = .ok i ∧ encode i = .command w

/-- A wire word at position 1 and the instruction it stands for, both ways. -/
abbrev spellsWire (w : WireWord) (i : Instr) : Prop := decodeWire 1 w = .ok i ∧ encode i = .wire 1 w

theorem test_decode_writeBit : spellsCommand 0b00010001000000000000000000000000 (.writeBit true) := by decide
theorem test_decode_writeByte : spellsCommand 0x200000A5 (.writeByte 0xA5) := by decide
theorem test_decode_transmit : spellsCommand 0x30000A08 (.transmit 0 0x0A 0x08) := by decide
theorem test_decode_transmit_negative : spellsCommand 0x30FF0101 (.transmit (-1) 1 1) := by decide
theorem test_decode_initialise : spellsCommand 0x40000000 (.initialise) := by decide
theorem test_decode_shutdown : spellsCommand 0x51010000 (.shutdown 1 true) := by decide
theorem test_decode_setIntensity : spellsCommand 0x60001400 (.setIntensity 0 20) := by decide
theorem test_decode_setIntensity_negative : spellsCommand 0x6000FF00 (.setIntensity 0 (-1)) := by decide
theorem test_decode_setScanLimit : spellsCommand 0x70010800 (.setScanLimit 1 8) := by decide
theorem test_decode_setDecodeMode : spellsCommand 0x800100FF (.setDecodeMode 1 0xFF) := by decide
theorem test_decode_clearDisplay : spellsCommand 0x90FF0000 (.clearDisplay (-1)) := by decide
theorem test_decode_clearDisplay_lowest : spellsCommand 0x90800000 (.clearDisplay (-128)) := by decide
theorem test_decode_setLed : spellsCommand 0b10100000000000010000011100000111 (.setLed 1 7 7 false) := by decide
theorem test_decode_displayTest : spellsCommand 0xB1010000 (.displayTest 1 true) := by decide
theorem test_decode_wNoop : spellsWire 0xAB00 (.wNoop 1 0xAB) := by decide
theorem test_decode_wDigit0 : spellsWire 0b1100000000000001 (.wDigit0 1 0xC0) := by decide
theorem test_decode_wDigit1 : spellsWire 0x0102 (.wDigit1 1 0x01) := by decide
theorem test_decode_wDigit2 : spellsWire 0x8003 (.wDigit2 1 0x80) := by decide
theorem test_decode_wDigit3 : spellsWire 0x1004 (.wDigit3 1 0x10) := by decide
theorem test_decode_wDigit4 : spellsWire 0x0805 (.wDigit4 1 0x08) := by decide
theorem test_decode_wDigit5 : spellsWire 0xFF06 (.wDigit5 1 0xFF) := by decide
theorem test_decode_wDigit6 : spellsWire 0x0007 (.wDigit6 1 0x00) := by decide
theorem test_decode_wDigit7 : spellsWire 0x0108 (.wDigit7 1 0x01) := by decide
theorem test_decode_wDecodeMode : spellsWire 0x0109 (.wDecodeMode 1 0x01) := by decide
theorem test_decode_wIntensity : spellsWire 0b0000100000001010 (.wIntensity 1 0x08) := by decide
theorem test_decode_wScanLimit : spellsWire 0x030B (.wScanLimit 1 0x03) := by decide
theorem test_decode_wShutdown : spellsWire 0x010C (.wShutdown 1 0x01) := by decide
theorem test_decode_wDisplayTest : spellsWire 0x010F (.wDisplayTest 1 0x01) := by decide

theorem test_reject_noSuchCommand :
    decodeCommand 0x00000000 = .error (.noSuchCommand 0) ∧ decodeCommand 0xFFFFFFFF = .error (.noSuchCommand 15) := by
  decide
theorem test_reject_zeroField :
    decodeCommand 0xA3000000 = .error .zeroFieldSet ∧ decodeCommand 0xA9000000 = .error .zeroFieldSet := by decide
theorem test_reject_unusedField :
    decodeCommand 0x210000A5 = .error .unusedFieldSet ∧ decodeCommand 0x31000A08 = .error .unusedFieldSet ∧
      decodeCommand 0x80010100 = .error .unusedFieldSet ∧ decodeCommand 0x60000801 = .error .unusedFieldSet := by decide
theorem test_reject_reservedOpcode :
    decodeWire 0 0x000D = .error (.reservedOpcode 13) ∧ decodeWire 0 0x000E = .error (.reservedOpcode 14) ∧
      decodeWire 0 0x0010 = .error (.reservedOpcode 16) ∧ decodeWire 0 0x008A = .error (.reservedOpcode 138) := by decide
theorem test_tableWord :
    decodeTableWord 32 0xA1000001 = some (.setLed 0 0 1 true) ∧ decodeTableWord 16 0x080A = some (.wIntensity 0 8) ∧
      decodeTableWord 32 0xC0000000 = none := by decide

/-! ### Listing (30_encoding R95, R96) -/

theorem test_listing_command : instrText (.setLed (-1) 0 7 true) = "setLed(-1, 0, 7, true)" := by decide
theorem test_listing_wire : instrText (.wIntensity 0 0x0A) = "W.INTENSITY 0x0A" := by decide

/-! ### One step from the spec's state S0 -/

/-- The registers of a controller in S0, INTENSITY being 8 (95, fixed conventions). -/
def c0 : Controller where
  digit := Vector.replicate 8 (knownReg 0)
  decode := knownReg 0
  intensity := knownReg 8
  scanLimit := knownReg 7
  shutdown := knownReg 1
  test := knownReg 0

/-- S0, with an empty TRACE and a chain of known zeros. -/
def s0 : State :=
  { State.reset with
    frame := [(2, 0x0C), (3, 0x01)]
    pins := { data := ⟨false, .output⟩, clk := ⟨false, .output⟩, load := ⟨true, .output⟩ }
    mode := #v[.activeOn, .activeOn]
    receiver := { Receiver.reset with
      chain := List.replicate 32 ⟨false, true⟩
      controllers := #v[c0, c0] } }

/-- The state an outcome goes on in. -/
def nextOf (o : Host.Outcome State Fault Refusal) : Option State :=
  match o with
  | .next t => some t
  | _ => none

/-- An outcome that goes on is a next state. -/
theorem goesOn {o : Host.Outcome State Fault Refusal} (h : (nextOf o).isSome = true) : ∃ t, o = .next t := by
  cases o with
  | next t => exact ⟨t, rfl⟩
  | fault _ => cases h
  | refused _ => cases h

/-- A command word run as one step. -/
def run (s : State) (w : CmdWord) : Option State := nextOf (step { s with program := [w] })

/-- The bytes a command puts on the wire. -/
def sent (s : State) (w : CmdWord) : Option (List Byte) := (run s w).map (fun t => wireBytes false false t.trace)

/-- One bit on the pins. -/
def pulse (v : Bool) : List PinEvent := [.write .data v, .write .clk true, .write .clk false]

theorem test_writeBit : (run s0 0x11000000).map State.trace = some (pulse true) := by decide
theorem test_writeBit_chain : (run s0 0x11000000).map (fun t => t.receiver.chain.any (fun b => b.known)) = some false := by
  decide
theorem test_writeByte : (run s0 0x200000A5).map State.trace =
    some ([true, false, true, false, false, true, false, true].flatMap pulse) := by decide
theorem test_transmit : sent s0 0x30000A08 = some [0x00, 0x00, 0x08, 0x0A] := by decide
theorem test_transmit_reserved : (run s0 0x30010D00).map
    (fun t => (t.receiver.controllers[1].digit[3].known, t.receiver.controllers[0].digit[3].known)) =
      some (false, true) := by decide
theorem test_initialise_events : (nextOf (exec .initialise State.reset)).map (fun t => t.events.length) = some 2552 := by
  decide
theorem test_initialise_frames : (run s0 0x40000000).map (fun t => wireBytes false false (t.trace.take 298)) =
    some [0x00, 0x00, 0x00, 0x0F, 0x00, 0x00, 0x07, 0x0B, 0x00, 0x00, 0x00, 0x09] := by decide
theorem test_shutdown : sent s0 0x51010000 = some [0x00, 0x0C, 0x00, 0x00] := by decide
theorem test_shutdown_mode : (run s0 0x51010000).map State.mode = some #v[.activeOn, .activeShutdown] := by decide
theorem test_setIntensity : sent s0 0x60010F00 = some [0x0F, 0x0A, 0x00, 0x00] := by decide
theorem test_setIntensity_range : sent s0 0x60001400 = some [] := by decide
theorem test_setScanLimit : sent s0 0x70010700 = some [0x07, 0x0B, 0x00, 0x00] := by decide
theorem test_setScanLimit_range : sent s0 0x70010800 = some [] := by decide
theorem test_setDecodeMode : sent s0 0x800100FF = some [0xFF, 0x09, 0x00, 0x00] := by decide
theorem test_clearDisplay : sent s0 0x90000000 =
    some [0, 0, 0, 1, 0, 0, 0, 2, 0, 0, 0, 3, 0, 0, 0, 4, 0, 0, 0, 5, 0, 0, 0, 6, 0, 0, 0, 7, 0, 0, 0, 8] := by decide
theorem test_clearDisplay_status : (run { s0 with status := [(3, 0x08), (8, 0x80), (15, 0x01)] } 0x90010000).map
    State.status = some [(3, 0x08)] := by decide
theorem test_setLed : sent s0 0xA1000707 = some [0x00, 0x00, 0x01, 0x08] := by decide
theorem test_setLed_off : (run { s0 with status := [(13, 0x7E)] } 0xA0010503).map State.status =
    some [(13, 0x6E)] := by decide
theorem test_displayTest : sent s0 0xB1010000 = some [0x01, 0x0F, 0x00, 0x00] := by decide
theorem test_displayTest_lit : (run s0 0xB1010000).map (fun t => (t.light 1 7 7, t.light 0 7 7)) =
    some (.lit, .dark) := by decide
theorem test_beforeInitialise : exec (.writeBit true) State.reset = .refused .uninitialised := rfl
theorem test_transmit_range : exec (.transmit 2 1 1) s0 = .refused (.transmitIndex 2) := rfl

/-- Controller 0 after one wire word (95 section 2.3). -/
def latched (w : Nat) : Option Controller :=
  (nextOf (step (s0.withFetchWord 16 w))).map (fun t => t.receiver.controllers[0])

theorem test_wNoop : latched 0xAB00 = some c0 := by decide
theorem test_wDigit0 : latched 0xC001 = some { c0 with digit := c0.digit.set 0 (knownReg 0xC0) } := by decide
theorem test_wDigit1 : latched 0x0102 = some { c0 with digit := c0.digit.set 1 (knownReg 0x01) } := by decide
theorem test_wDigit2 : latched 0x8003 = some { c0 with digit := c0.digit.set 2 (knownReg 0x80) } := by decide
theorem test_wDigit3 : latched 0x1004 = some { c0 with digit := c0.digit.set 3 (knownReg 0x10) } := by decide
theorem test_wDigit4 : latched 0x0805 = some { c0 with digit := c0.digit.set 4 (knownReg 0x08) } := by decide
theorem test_wDigit5 : latched 0xFF06 = some { c0 with digit := c0.digit.set 5 (knownReg 0xFF) } := by decide
theorem test_wDigit6 : latched 0x1807 = some { c0 with digit := c0.digit.set 6 (knownReg 0x18) } := by decide
theorem test_wDigit7 : latched 0x0108 = some { c0 with digit := c0.digit.set 7 (knownReg 0x01) } := by decide
theorem test_wDecodeMode : (latched 0x0109).map (fun c => c.light 0 0) = some .unspecified := by decide
theorem test_wIntensity : latched 0x0F0A = some { c0 with intensity := knownReg 0x0F } := by decide
theorem test_wIntensity_illegal : (latched 0x100A).map (fun c => (c.light 0 0, c.digit[7].known, c.test.known)) =
    some (.unknown, false, false) := by decide
theorem test_wScanLimit : latched 0x030B = some { c0 with scanLimit := knownReg 0x03 } := by decide
theorem test_wScanLimit_dark : Controller.light { c0 with scanLimit := knownReg 3, digit := Vector.replicate 8 (knownReg 0xFF) }
    4 0 = .dark ∧ Controller.light { c0 with scanLimit := knownReg 3, digit := Vector.replicate 8 (knownReg 0xFF) } 3 0 =
      .lit := by decide
theorem test_wShutdown : latched 0x000C = some { c0 with shutdown := knownReg 0 } := by decide
theorem test_wShutdown_dark : Controller.light { c0 with shutdown := knownReg 0, digit := Vector.replicate 8 (knownReg 0xFF) }
    0 0 = .dark := by decide
theorem test_wDisplayTest : (latched 0x010F).map (fun c => c.light 7 7) = some .lit := by decide
theorem test_reservedWord : (latched 0x008A).map (fun c => c.intensity.known) = some false := by decide

/-- Where the step fetches, the placed word is what runs, as the first instruction after reset too. -/
theorem test_fetch_command (w : Nat) (i : Instr) (h : decodeTableWord 32 w = some i) :
    step (State.reset.withFetchWord 32 w) = exec i (State.reset.withFetchWord 32 w) := by
  have d : decode (.command (BitVec.ofNat 32 w)) = .ok i := by
    unfold decodeTableWord at h
    rw [if_neg (by decide)] at h
    cases e : decode (.command (BitVec.ofNat 32 w)) <;> simp_all [Except.toOption]
  have f : fetchCommand (State.reset.withFetchWord 32 w) = some (BitVec.ofNat 32 w) := rfl
  have l : (State.reset.withFetchWord 32 w).receiver.latching = [] := rfl
  unfold step
  simp only [l, f, d]

theorem test_fetch_wire : step (State.reset.withFetchWord 16 0x0F0A) =
    exec (.wIntensity 0 0x0F) (State.reset.withFetchWord 16 0x0F0A) := rfl

/-! ### Witnesses: the hypotheses of every obligation are met by something -/

/-- S0 with a host sequence. -/
def s0With (program : List CmdWord) : State := { s0 with program := program }

/-- S0 with its lines as while a frame is shifted. -/
def s0Shifting : State := { s0 with pins := { s0.pins with load := ⟨false, .output⟩ } }

/-- S0 with CLK high. -/
def s0ClkHigh : State := { s0 with pins := { s0.pins with clk := ⟨true, .output⟩ } }

theorem s0_active : Active s0 := by unfold Active; decide
theorem s0_linesIdle : LinesIdle s0 := ⟨rfl, rfl, rfl⟩
theorem s0_mirrors (program : List CmdWord) : Mirrors (s0With program) :=
  have rows : ∀ (c : Position) (r : Fin 8), s0.receiver.controllers[c].digit[r] =
      { value := s0.status.read (statusAddress c.val r.val), known := true } := by decide
  fun _ => ⟨⟨⟨rfl, rfl, rfl⟩, rfl⟩, rows⟩

theorem witness_DecodeEncodeRoundTrip :
    (Instr.setLed (-128) 127 (-1) true).WellFormed ∧ (Instr.setIntensity 127 (-128)).WellFormed ∧
      (Instr.wDigit7 1 0xFF).WellFormed := by decide
theorem witness_DecodedWordIsItsEncoding :
    decode (.command 0xA17F80FF) = .ok (.setLed 127 (-128) (-1) true) ∧ decode (.wire 1 0xFF0F) =
      .ok (.wDisplayTest 1 0xFF) := by decide
theorem witness_StepRunsDecodedInstruction :
    ((s0With [0xA1000001]).receiver.latching = [] ∧ fetchCommand (s0With [0xA1000001]) = some 0xA1000001 ∧
      decode (.command 0xA1000001) = .ok (.setLed 0 0 1 true)) ∧
    ((s0.withFetchWord 16 0x080A).receiver.latching = [0] ∧
      (s0.withFetchWord 16 0x080A).receiver.latchedWord 0 = some 0x080A ∧
      decode (.wire 0 0x080A) = .ok (.wIntensity 0 8)) := by decide
theorem witness_IllegalCommandWordIsIgnored :
    (s0With [0]).receiver.latching = [] ∧ fetchCommand (s0With [0]) = some 0 ∧
      decodeCommand 0 = .error (.noSuchCommand 0) := by decide
theorem witness_StepIdlesAtTheEnd : s0.receiver.latching = [] ∧ s0.program.length ≤ s0.cp := by decide
theorem witness_RefusalOnlyWhereTheSpecRefuses :
    exec (.setLed 0 0 0 true) State.reset = .refused .uninitialised ∧
      exec (.transmit 2 1 1) s0 = .refused (.transmitIndex 2) ∧
      exec (.transmit (-1) 1 1) s0 = .refused (.transmitIndex (-1)) := ⟨rfl, rfl, rfl⟩
theorem witness_CommandBeforeInitialiseIsRefused :
    isCommand (.transmit 2 1 1) = true ∧ Instr.transmit 2 1 1 ≠ .initialise ∧ ¬ Active State.reset :=
  ⟨rfl, by decide, fun h => h 0 rfl⟩
theorem witness_TransmitOutOfRangeIsRefused : Active s0 ∧ ¬ InChain 2 ∧ ¬ InChain (-1) :=
  ⟨s0_active, by unfold InChain; decide, by unfold InChain; decide⟩
theorem witness_CommandAdvancesCpByOne :
    (∃ t, exec (.setLed 5 9 9 true) s0 = .next t) ∧ (∃ t, exec (.writeBit true) s0 = .next t) ∧
      ∃ t, exec (.wNoop 0 0) s0 = .next t := ⟨goesOn (by decide), goesOn (by decide), goesOn (by decide)⟩
theorem witness_StepOnlyExtendsTrace : ∃ t, step (s0With [0x30000A08]) = .next t := goesOn (by decide)
theorem witness_StepKeepsCanonical : Canonical (s0With [0xA1000000]) ∧ ∃ t, step (s0With [0xA1000000]) = .next t :=
  ⟨⟨rfl, rfl, rfl⟩, goesOn (by decide)⟩
theorem witness_StepKeepsIdleLines :
    IdleBetweenCommands (s0With [0x11000000]) ∧ (∃ t, step (s0With [0x11000000]) = .next t) ∧ Active (s0With [0x11000000]) :=
  ⟨fun _ => s0_linesIdle, goesOn (by decide), s0_active⟩
theorem witness_StepKeepsStatusMirror :
    (Mirrors (s0With [0xA1000000]) ∧ NextKeepsMirror (s0With [0xA1000000]) ∧ ∃ t, step (s0With [0xA1000000]) = .next t) ∧
    (Mirrors (s0With [0x30000A0F]) ∧ NextKeepsMirror (s0With [0x30000A0F]) ∧ ∃ t, step (s0With [0x30000A0F]) = .next t) ∧
    Active (s0With [0xA1000000]) := by
  refine ⟨⟨s0_mirrors _, ?_, goesOn (by decide)⟩, ⟨s0_mirrors _, ?_, goesOn (by decide)⟩, s0_active⟩
  · intro w i h1 h2
    have e : fetchCommand (s0With [0xA1000000]) = some 0xA1000000 := rfl
    rw [e] at h1
    cases h1
    have d : decodeCommand 0xA1000000 = .ok (.setLed 0 0 0 true) := by decide
    rw [d] at h2
    cases h2
    decide
  · intro w i h1 h2
    have e : fetchCommand (s0With [0x30000A0F]) = some 0x30000A0F := rfl
    rw [e] at h1
    cases h1
    have d : decodeCommand 0x30000A0F = .ok (.transmit 0 0x0A 0x0F) := by decide
    rw [d] at h2
    cases h2
    decide
theorem witness_BlockIsBlindToControllers : SameBlock s0 { s0 with receiver := Receiver.reset } ∧
    s0 ≠ { s0 with receiver := Receiver.reset } := ⟨rfl, by decide⟩
theorem witness_WriteBitDrivesDataThenPulsesClock :
    Active s0 ∧ (Active s0Shifting ∧ s0Shifting.pins.data.dir = .output ∧
      s0Shifting.pins.clk = { level := false, dir := .output } ∧
      s0Shifting.pins.load = { level := false, dir := .output }) ∧
    (Active s0ClkHigh ∧ s0ClkHigh.pins.clk = { level := true, dir := .output }) :=
  ⟨s0_active, ⟨s0_active, rfl, rfl, rfl⟩, s0_active, rfl⟩
theorem witness_WriteByteSendsBitSevenFirst : Active s0 := s0_active
theorem witness_RawBitsLeaveRegistersAndForgetChain : Active s0 ∧ LinesIdle s0 ∧
    Instr.writeBit true ∈ [Instr.writeBit true, Instr.writeByte 0xFF] ∧
    Instr.writeByte 0xFF ∈ [Instr.writeBit true, Instr.writeByte 0xFF] := ⟨s0_active, s0_linesIdle, by simp, by simp⟩
theorem witness_TransmitSendsOneFrame : Active s0 := s0_active
theorem witness_TransmitWireBytes : Active s0 ∧ s0.pins.clk.level = false := ⟨s0_active, rfl⟩
theorem witness_TransmitReachesOneController : Active s0 ∧ LinesIdle s0 ∧ (1 : Position) ≠ 0 ∧
    wireRule 10 15 s0.receiver.controllers[0] = some { c0 with intensity := knownReg 15 } ∧
    wireRule 10 16 s0.receiver.controllers[0] = none := ⟨s0_active, s0_linesIdle, by decide, rfl, rfl⟩
/-- Each of the cases, at its boundary. -/
theorem witness_ReservedWordMakesControllerUnknown : Active s0 ∧ LinesIdle s0 ∧
    ([(13, 0), (14, 0), (16, 0), (255, 0), (10, 16), (11, 8), (12, 2), (15, 2)] : List (Byte × Byte)).all (fun w =>
      decide (w.1 = 13 ∨ w.1 = 14 ∨ 16 ≤ w.1.toNat ∨ (w.1 = 10 ∧ 16 ≤ w.2.toNat) ∨
        (w.1 = 11 ∧ 8 ≤ w.2.toNat) ∨ (w.1 = 12 ∧ 2 ≤ w.2.toNat) ∨ (w.1 = 15 ∧ 2 ≤ w.2.toNat))) = true :=
  ⟨s0_active, s0_linesIdle, by decide⟩
/-- Each check, just below and just above its range. -/
theorem witness_InvalidOperandIsSilentNoOp : Active s0 ∧ ¬ InChain (-1) ∧ ¬ InChain 2 ∧
    (∀ level ∈ ([-1, 16] : List Int), ¬ (InChain 0 ∧ 0 ≤ level ∧ level < 16)) ∧
    (∀ limit ∈ ([-1, 8] : List Int), ¬ (InChain 1 ∧ 0 ≤ limit ∧ limit < 8)) ∧
    (∀ row ∈ ([-1, 8] : List Int), ¬ (InChain 0 ∧ (0 ≤ row ∧ row < 8) ∧ (0 : Int) ≤ 7 ∧ (7 : Int) < 8)) ∧
    ∀ column ∈ ([-1, 8] : List Int), ¬ (InChain 0 ∧ ((0 : Int) ≤ 7 ∧ (7 : Int) < 8) ∧ 0 ≤ column ∧ column < 8) := by
  refine ⟨s0_active, ?_⟩
  unfold InChain
  decide
theorem witness_SetLedUpdatesStatusAndSendsRow : Active s0 ∧ LinesIdle s0 := ⟨s0_active, s0_linesIdle⟩
theorem witness_SetLedWritesOneColumnBit : Active s0 ∧ (0 : Nat) < 8 ∧ (0 : Nat) ≠ 7 - (0 : Fin 8).val :=
  ⟨s0_active, by decide, by decide⟩
theorem witness_ClearDisplayZeroesEveryRow : Active s0 ∧ LinesIdle s0 := ⟨s0_active, s0_linesIdle⟩
theorem witness_ClearDisplayLeavesOtherControllers : Active s0 ∧ LinesIdle s0 ∧ (1 : Position) ≠ 0 :=
  ⟨s0_active, s0_linesIdle, by decide⟩
theorem witness_SetIntensitySendsLevel : Active s0 ∧ LinesIdle s0 ∧
    ¬ (InChain 0 ∧ (0 : Int) ≤ 16 ∧ (16 : Int) < 16) ∧ ¬ (InChain 2 ∧ (0 : Int) ≤ 15 ∧ (15 : Int) < 16) := by
  refine ⟨s0_active, s0_linesIdle, ?_⟩
  unfold InChain
  decide
theorem witness_SetScanLimitSendsLimit : Active s0 ∧ LinesIdle s0 ∧
    s0.receiver.controllers[0].test = { value := 0, known := true } ∧
    s0.receiver.controllers[0].shutdown = { value := 1, known := true } ∧
    s0.receiver.controllers[0].decode = { value := 0, known := true } ∧
    ¬ (InChain 0 ∧ (0 : Int) ≤ 8 ∧ (8 : Int) < 8) ∧ ¬ (InChain (-1) ∧ (0 : Int) ≤ 7 ∧ (7 : Int) < 8) := by
  refine ⟨s0_active, s0_linesIdle, rfl, rfl, rfl, ?_⟩
  unfold InChain
  decide
theorem witness_SetDecodeModePassesModeThrough : Active s0 ∧ LinesIdle s0 := ⟨s0_active, s0_linesIdle⟩
theorem witness_ShutdownSendsPolarityAndRecordsMode : Active s0 ∧ LinesIdle s0 ∧ (0 : Position) ≠ 1 :=
  ⟨s0_active, s0_linesIdle, by decide⟩
theorem witness_DisplayTestLeavesStatusAndMode : Active s0 ∧ LinesIdle s0 := ⟨s0_active, s0_linesIdle⟩
theorem witness_PinEventCounts : Active s0 := s0_active
theorem witness_ModeFollowsTheStateMachine : Active s0 ∧
    (Instr.displayTest 0 true ≠ .initialise ∧
      (∀ (c : Position) (enabled : Bool), Instr.displayTest 0 true ≠ .shutdown c.val enabled) ∧
      ∃ t, exec (.displayTest 0 true) s0 = .next t) ∧
    (∀ (c : Position) (enabled : Bool), Instr.shutdown 2 true ≠ .shutdown c.val enabled) ∧
    (isCommand (.shutdown 0 true) = true ∧ Instr.shutdown 0 true ≠ .initialise ∧
      ∃ c : Position, State.reset.mode[c] = .uninit) :=
  ⟨s0_active, ⟨by decide, by decide, goesOn (by decide)⟩, by decide, rfl, by decide, 1, rfl⟩
theorem witness_OnlyTheNamedCommandsWriteStatus :
    (∃ t, exec (.displayTest 0 true) s0 = .next t) ∧ (Instr.displayTest 0 true ≠ .initialise ∧
      (∀ c, Instr.displayTest 0 true ≠ .clearDisplay c) ∧
      ∀ c row column state, Instr.displayTest 0 true ≠ .setLed c row column state) ∧
    (∃ t, exec (.wDigit0 0 1) s0 = .next t) ∧ isCommand (.wDigit0 0 1) = false :=
  ⟨goesOn (by decide), ⟨by simp, by simp, by simp⟩, goesOn (by decide), rfl⟩
theorem witness_NoopWordChangesNoRegister : Active s0 ∧ LinesIdle s0 ∧ (1 : Position) ≠ 0 :=
  ⟨s0_active, s0_linesIdle, by decide⟩
theorem witness_DigitWordWritesOneRow : s0.receiver.controllers[1].test = { value := 0, known := true } ∧
    s0.receiver.controllers[1].shutdown = { value := 1, known := true } ∧
    s0.receiver.controllers[1].decode = { value := 0, known := true } ∧
    s0.receiver.controllers[1].scanLimit = { value := 7, known := true } := by decide
theorem witness_IntensityWordWritesIntensity : (0x0F : Byte).toNat < 16 := by decide
theorem witness_ScanLimitWordWritesScanLimit : (0x07 : Byte).toNat < 8 := by decide
theorem witness_ShutdownWordWritesShutdown : (0x01 : Byte).toNat < 2 := by decide
theorem witness_DisplayTestWordWritesTest : (0x01 : Byte).toNat < 2 := by decide
/-- Each of the four words, at the first illegal data. -/
theorem witness_IllegalWireDataMakesControllerUnknown : 16 ≤ (0x10 : Byte).toNat ∧ 8 ≤ (0x08 : Byte).toNat ∧
    2 ≤ (0x02 : Byte).toNat ∧ (1 : Position) ≠ 0 := by decide
theorem witness_StepOfAWordIsTheLatchOfIt : (s0.withFetchWord 16 0x008A).receiver.latching = 0 :: [] := rfl
/-- A legal word, a reserved one, and none at all. -/
theorem witness_LoadEdgeLatchesEveryController :
    (s0Shifting.withFetchWord 16 0x080A).pins.load = { level := false, dir := .output } ∧
    ((s0Shifting.withFetchWord 16 0x080A).receiver.latchedWord 0 = some 0x080A ∧
      wireRule (wireOpcode 0x080A) (wireData 0x080A) c0 = some c0) ∧
    ((s0Shifting.withFetchWord 16 0x008A).receiver.latchedWord 0 = some 0x008A ∧
      wireRule (wireOpcode 0x008A) (wireData 0x008A) c0 = none) ∧
    Receiver.reset.latchedWord 0 = none := by decide
theorem witness_RisingClockShiftsChain : s0Shifting.pins.data.dir = .output ∧ s0Shifting.pins.load.dir = .output ∧
    s0Shifting.pins.clk = { level := false, dir := .output } ∧ s0Shifting.pins.load.level = false := by decide
theorem witness_ClockWithLoadHighForgetsChain : s0.pins.clk = { level := false, dir := .output } ∧
    s0.pins.load = { level := true, dir := .output } := by decide
theorem witness_PinPrimitives : Line.clk ≠ Line.data := by decide
/-- A controller for each case, in the order of the statement. -/
theorem witness_LightFollowsTheSevenCases :
    (unknownController 0).test.known = false ∧
    (c0.test.known = true ∧ c0.shutdown.known = true) ∧
    (Controller.light { c0 with test := knownReg 1 } 0 0 = .lit ∧
      Controller.light { c0 with test := knownReg 1, shutdown := knownReg 0 } 0 0 = .unspecified ∧
      Controller.light { c0 with shutdown := knownReg 0 } 0 0 = .dark) ∧
    (Controller.light { c0 with decode := freeReg 0 9 } 0 0 = .unknown ∧
      Controller.light { c0 with decode := knownReg 1 } 0 0 = .unspecified) ∧
    (Controller.light { c0 with scanLimit := freeReg 0 11 } 0 0 = .unknown ∧
      Controller.light { c0 with scanLimit := knownReg 6 } 7 0 = .dark) ∧
    Controller.light { c0 with digit := c0.digit.set 7 (freeReg 0 8) } 7 0 = .unknown ∧
    Controller.light { c0 with digit := c0.digit.set 7 (knownReg 0x80) } 7 0 = .lit := by decide
theorem witness_LitIsTheStatusBit : Mirrors (s0With []) ∧ Active (s0With []) ∧
    (s0With []).receiver.controllers[0].test = { value := 0, known := true } ∧
    (s0With []).receiver.controllers[0].shutdown = { value := 1, known := true } ∧
    (s0With []).receiver.controllers[0].decode = { value := 0, known := true } ∧
    (s0With []).receiver.controllers[0].scanLimit = { value := 7, known := true } :=
  ⟨s0_mirrors [], s0_active, rfl, rfl, rfl, rfl⟩

end Sys2Proof.Tests
end

/-!
MODE (10_state R30): what each sub-operation and each outcome does to it, and the state machine it follows.
-/

namespace Sys2Proof.Proofs.ModeMachine

open Sys2Proof.Machine

/-! ### MODE after the sub-operations -/

@[simp] theorem configurePins_mode (s : State) : (configurePins s).mode = s.mode := rfl

@[simp] theorem rowCleared_mode (c : Position) (r : Fin 8) (s : State) : (rowCleared c r s).mode = s.mode := by
  simp [rowCleared]

@[simp] theorem rowsCleared_mode (c : Position) (s : State) : (rowsCleared c s).mode = s.mode := by
  simp [rowsCleared]

@[simp] theorem ledWritten_mode (c : Position) (row column : Fin 8) (state : Bool) (s : State) :
    (ledWritten c row column state s).mode = s.mode := by
  simp [ledWritten]

@[simp] theorem controllerInitialised_mode (c : Position) (s : State) :
    (controllerInitialised c s).mode = s.mode.set c .activeOn := by
  simp [controllerInitialised]

/-! ### The two transitions -/

/-- `initialize` completes in every state and makes every controller ActiveOn (41 R131). -/
theorem exec_initialise_mode (s : State) :
    ∃ t, exec .initialise s = .next t ∧ ∀ c : Position, t.mode[c] = .activeOn := by
  refine ⟨_, execInitialise_eq s, fun c => ?_⟩
  rcases position_cases c with rfl | rfl <;> simp

/-- `shutdown` of a controller of the chain: the frame goes out, then MODE of that controller is set (41 R133). -/
theorem exec_shutdown_eq (c : Position) (enabled : Bool) {s : State} (h : Active s) :
    exec (.shutdown c.val enabled) s =
      .next (setMode c (shutdownMode enabled) (frameSent c 12 (shutdownData enabled) s)).advance := by
  show execShutdown c.val enabled s = _
  rw [execShutdown, whenActive_of_active h, controllerOf_natCast]
  simp only [transmitFrame_ok]
  rfl

/-! ### Commands and wire words -/

/-- The range check answers only the index it was given. -/
theorem eq_of_controllerOf_eq_some {x : Int} {c : Position} (h : controllerOf x = some c) : x = c.val := by
  by_cases hx : 0 ≤ x ∧ x < Config.numControllers
  · rw [controllerOf, checked_some hx] at h
    cases h
    exact (Int.toNat_of_nonneg hx.1).symm
  · rw [controllerOf_none hx] at h
    cases h

/-- A wire word is performed by one controller, under one rule, and does nothing else (42 R162). -/
theorem exec_eq_performWire {i : Instr} (h : isCommand i = false) (s : State) :
    ∃ k rule, exec i s = performWire k rule s := by
  cases i with
  | wNoop k d | wDigit0 k d | wDigit1 k d | wDigit2 k d | wDigit3 k d | wDigit4 k d | wDigit5 k d | wDigit6 k d
  | wDigit7 k d | wDecodeMode k d | wIntensity k d | wScanLimit k d | wShutdown k d | wDisplayTest k d =>
    exact ⟨k, _, rfl⟩
  | writeBit | writeByte | transmit | initialise | shutdown | setIntensity | setScanLimit | setDecodeMode
  | clearDisplay | setLed | displayTest => cases h

/-- Every command but `initialize` looks first whether every controller is initialised (70 R223). -/
theorem exec_eq_whenActive {i : Instr} (hc : isCommand i = true) (hi : i ≠ .initialise) (s : State) :
    ∃ body, exec i s = whenActive s body := by
  cases i with
  | initialise => exact absurd rfl hi
  | writeBit | writeByte | transmit | shutdown | setIntensity | setScanLimit | setDecodeMode | clearDisplay | setLed
  | displayTest => exact ⟨_, rfl⟩
  | wNoop | wDigit0 | wDigit1 | wDigit2 | wDigit3 | wDigit4 | wDigit5 | wDigit6 | wDigit7 | wDecodeMode | wIntensity
  | wScanLimit | wShutdown | wDisplayTest => cases hc

/-- With some controller not initialised a command is turned away (70 R223). -/
theorem whenActive_of_uninit {s : State} (h : ∃ c : Position, s.mode[c] = .uninit)
    (body : Host.Outcome State Fault Refusal) : whenActive s body = .refused .uninitialised := by
  obtain ⟨c, hc⟩ := h
  have any : s.anyUninit = true := by
    by_contra hn
    exact active_of_anyUninit (Bool.eq_false_iff.mpr hn) c hc
  rw [whenActive, if_pos any]

/-! ### What leaves MODE as it is -/

/-- Whatever state the outcome goes on in has the MODE of `s`. -/
def KeepsMode (s : State) (o : Host.Outcome State Fault Refusal) : Prop := KeptBy (fun t => t.mode = s.mode) o

theorem keepsMode_silent (s : State) : KeepsMode s (silent s) := keptBy_next rfl

theorem keepsMode_performWire (k : Position) (rule : Controller → Option Controller) (s : State) :
    KeepsMode s (performWire k rule s) := keptBy_next rfl

theorem keepsMode_transmit (c : Position) (opcode data : Byte) (s : State) :
    KeepsMode s (finish (transmitFrame c.val opcode data s)) := by
  rw [transmitFrame_ok]
  exact keptBy_next (by simp)

/-- Only `initialize`, and `shutdown` with an index in the chain, change MODE (10_state R30). -/
theorem keepsMode_exec {i : Instr} (hi : i ≠ .initialise)
    (hs : ∀ (c : Position) (enabled : Bool), i ≠ .shutdown c.val enabled) (s : State) : KeepsMode s (exec i s) := by
  cases hc : isCommand i with
  | false =>
    obtain ⟨k, rule, he⟩ := exec_eq_performWire hc s
    rw [he]
    exact keepsMode_performWire k rule s
  | true =>
    cases i with
    | initialise => exact absurd rfl hi
    | writeBit v => exact keptBy_whenActive (keptBy_next (by simp))
    | writeByte b => exact keptBy_whenActive (keptBy_next (by simp))
    | transmit c opcode data =>
      refine keptBy_whenActive ?_
      split
      · exact keepsMode_transmit _ _ _ s
      · exact keptBy_refused _
    | shutdown x enabled =>
      refine keptBy_whenActive ?_
      split
      next c hx => exact absurd (by rw [eq_of_controllerOf_eq_some hx]) (hs c enabled)
      next => exact keepsMode_silent s
    | setIntensity | setScanLimit | setDecodeMode | displayTest =>
      refine keptBy_whenActive ?_
      split
      · exact keepsMode_transmit _ _ _ s
      · exact keepsMode_silent s
    | clearDisplay c =>
      refine keptBy_whenActive ?_
      split
      · rw [clearRows_ok]
        exact keptBy_next (by simp)
      · exact keepsMode_silent s
    | setLed c row column state =>
      refine keptBy_whenActive ?_
      split
      · rw [ledWrite_ok]
        exact keptBy_next (by simp)
      · exact keepsMode_silent s
    | wNoop | wDigit0 | wDigit1 | wDigit2 | wDigit3 | wDigit4 | wDigit5 | wDigit6 | wDigit7 | wDecodeMode | wIntensity
    | wScanLimit | wShutdown | wDisplayTest => cases hc

/-! ### The obligation -/

/-- Settles O40: the two transitions from the state each command leaves, the rest from `keepsMode_exec`, and the refusal
because every command but `initialize` begins with the check of `whenActive`. -/
theorem modeFollowsTheStateMachine : Obligations.ModeFollowsTheStateMachine := by
  unfold Obligations.ModeFollowsTheStateMachine
  refine ⟨exec_initialise_mode, fun c enabled s h => ⟨_, exec_shutdown_eq c enabled h, ?_⟩,
    fun i s t hi hs ht => keepsMode_exec hi hs s t ht, fun i s hc hi hu => ?_⟩
  · simp [shutdownMode]
  · obtain ⟨body, he⟩ := exec_eq_whenActive hc hi s
    exact ⟨.uninitialised, by rw [he, whenActive_of_uninit hu]⟩

end Sys2Proof.Proofs.ModeMachine

/-!
The Serial Transport (40_serial_transport): an edge of CLK reaches the chain and never a register of a controller, so the
bits and bytes the block clocks out leave every register alone, whatever the levels and directions of the lines.
-/

namespace Sys2Proof.Proofs.SerialTransport

open Sys2Proof.Machine

/-! ### The registers under CLK edges (42 R161, R180) -/

@[simp] theorem shiftWire_controllers (wire : Option Bool) (r : Receiver) :
    (r.shiftWire wire).controllers = r.controllers := by
  cases wire <;> rfl

@[simp] theorem shiftWire_latching (wire : Option Bool) (r : Receiver) :
    (r.shiftWire wire).latching = r.latching := by
  cases wire <;> rfl

/-- What a CLK edge can do to the controllers: nothing, one shift of the chain, or an unknown chain. -/
theorem onClkEdge_cases (ps : Pins) (edge : Edge) (r : Receiver) :
    r.onClkEdge ps edge = r ∨ r.onClkEdge ps edge = r.shiftWire (ps.wire .data) ∨
      r.onClkEdge ps edge = r.forgetChain := by
  cases edge with
  | rising =>
    by_cases hload : ps.wire .load = some false
    · exact .inr (.inl (if_pos hload))
    · exact .inr (.inr (if_neg hload))
  | unknown => exact .inr (.inr rfl)
  | falling | quiet => exact .inl rfl

@[simp] theorem onClkEdge_controllers (ps : Pins) (edge : Edge) (r : Receiver) :
    (r.onClkEdge ps edge).controllers = r.controllers := by
  rcases onClkEdge_cases ps edge r with h | h | h <;> simp [h]

@[simp] theorem onClkEdge_latching (ps : Pins) (edge : Edge) (r : Receiver) :
    (r.onClkEdge ps edge).latching = r.latching := by
  rcases onClkEdge_cases ps edge r with h | h | h <;> simp [h]

/-! ### writeBit and writeByte on the registers (40 R111, R112) -/

/-- One bit is a change of DATA, which the controllers do not see, and two writes of CLK. -/
theorem bitOut_receiver_eq (v : Bool) (s : State) :
    ∃ ps ps' edge edge', (bitOut v s).receiver = (s.receiver.onClkEdge ps edge).onClkEdge ps' edge' :=
  ⟨_, _, _, _, rfl⟩

@[simp] theorem bitOut_controllers (v : Bool) (s : State) :
    (bitOut v s).receiver.controllers = s.receiver.controllers := by
  obtain ⟨ps, ps', edge, edge', h⟩ := bitOut_receiver_eq v s
  simp [h]

@[simp] theorem bitOut_latching (v : Bool) (s : State) :
    (bitOut v s).receiver.latching = s.receiver.latching := by
  obtain ⟨ps, ps', edge, edge', h⟩ := bitOut_receiver_eq v s
  simp [h]

@[simp] theorem byteOut_controllers (b : Byte) (s : State) :
    (byteOut b s).receiver.controllers = s.receiver.controllers := by
  simp only [byteOut_eq, bitOut_controllers]

@[simp] theorem byteOut_latching (b : Byte) (s : State) :
    (byteOut b s).receiver.latching = s.receiver.latching := by
  simp only [byteOut_eq, bitOut_latching]

/-! ### The command -/

/-- Eight bits of three events each (40 R112). -/
theorem byteEvents_length (b : Byte) : (byteEvents b).length = 24 := rfl

/-- With every controller initialised `writeByte` always completes: its byte goes out and CP advances. -/
theorem exec_writeByte_eq (byte : Byte) {s : State} (h : Active s) :
    exec (.writeByte byte) s = .next (byteOut byte s).advance := by
  show execWriteByte byte s = _
  rw [execWriteByte, whenActive_of_active h, finish_ok]

/-- Settles O20: the state the command leaves is its byte sent and CP advanced, and each clause is what `byteOut` does to
that field; the registers stay because only CLK and DATA are written. -/
theorem writeByteSendsBitSevenFirst : Obligations.WriteByteSendsBitSevenFirst := by
  unfold Obligations.WriteByteSendsBitSevenFirst
  intro byte s h
  have status : SameStatus s (byteOut byte s).advance := fun a => by simp
  have frame : ∀ a, (byteOut byte s).advance.frame.read a = s.frame.read a := fun a => by simp
  exact ⟨_, exec_writeByte_eq byte h, byteOut_trace byte s, byteEvents_length byte, byteOut_pins byte s, status, frame,
    byteOut_mode byte s, congrArg (· + 1) (byteOut_cp byte s), byteOut_program byte s, byteOut_controllers byte s,
    byteOut_latching byte s⟩

end Sys2Proof.Proofs.SerialTransport

/-!
The Display State Manager (41_display_state_manager): the one bit `setLed` writes, the one controller `clearDisplay`
reaches, and the register write with which `initialize` ends for each controller.
-/

namespace Sys2Proof.Proofs.DisplayStateManager

open Sys2Proof.Machine

/-! ### The row byte with one LED set or cleared (41 R142, R145) -/

/-- The mask of a column has one bit: column 0 is the most significant one (41 R143). -/
theorem getLsbD_columnMask (column : Fin 8) {i : Nat} (hi : i < 8) :
    (columnMask column).getLsbD i = decide (i = 7 - column.val) := by
  have finite : ∀ (column : Fin 8) (i : Fin 8),
      (columnMask column).getLsbD i.val = decide (i.val = 7 - column.val) := by decide
  exact finite column ⟨i, hi⟩

/-- One bit of the row byte takes the state of the LED; the other seven stay (41 R142). -/
theorem getLsbD_ledByte (column : Fin 8) (state : Bool) (old : Byte) {i : Nat} (hi : i < 8) :
    (ledByte column state old).getLsbD i = if i = 7 - column.val then state else old.getLsbD i := by
  cases state with
  | true =>
    rw [ledByte, if_pos rfl, BitVec.getLsbD_or, getLsbD_columnMask column hi]
    by_cases h : i = 7 - column.val <;> simp [h]
  | false =>
    rw [ledByte, if_neg Bool.false_ne_true, BitVec.getLsbD_and, BitVec.getLsbD_not, getLsbD_columnMask column hi]
    by_cases h : i = 7 - column.val <;> simp [h, hi]

/-- Setting and then clearing leaves what clearing alone leaves. -/
theorem ledByte_false_ledByte_true (column : Fin 8) (old : Byte) :
    ledByte column false (ledByte column true old) = ledByte column false old := by
  refine BitVec.eq_of_getLsbD_eq fun i hi => ?_
  simp only [getLsbD_ledByte _ _ _ hi]
  split <;> rfl

/-- Writing an LED changes nothing exactly when it already stood so. -/
theorem ledByte_eq_self_iff (column : Fin 8) (state : Bool) (old : Byte) :
    ledByte column state old = old ↔ old.getLsbD (7 - column.val) = state := by
  constructor
  · intro same
    have bit := getLsbD_ledByte column state old (i := 7 - column.val) (by omega)
    rwa [same, if_pos rfl] at bit
  · intro bit
    refine BitVec.eq_of_getLsbD_eq fun i hi => ?_
    rw [getLsbD_ledByte _ _ _ hi]
    split
    next own => rw [own, bit]
    next => rfl

/-! ### setLed (41 R142, R143) -/

/-- `setLed` with valid operands completes (41 R142). -/
theorem exec_setLed_eq (c : Position) (row column : Fin 8) (state : Bool) {s : State} (h : Active s) :
    exec (.setLed c.val row.val column.val state) s = .next (ledWritten c row column state s).advance := by
  show execSetLed c.val row.val column.val state s = _
  rw [execSetLed, whenActive_of_active h, controllerOf_natCast, checked_natCast, checked_natCast]
  show finish (ledWrite c.val row.val column state s) = _
  rw [ledWrite_ok, finish_ok]

/-- The STATUS byte of the named row after `setLed`. -/
theorem ledWritten_status_own (c : Position) (row column : Fin 8) (state : Bool) (s : State) :
    (ledWritten c row column state s).advance.status.read (statusAddress c.val row.val) =
      ledByte column state (s.status.read (statusAddress c.val row.val)) := by
  simp [ledWritten]

/-- After `setLed` every controller is still initialised, so a further command is taken. -/
theorem active_ledWritten (c : Position) (row column : Fin 8) (state : Bool) {s : State} (h : Active s) :
    Active (ledWritten c row column state s).advance := by
  intro k
  rw [State.advance_mode, ModeMachine.ledWritten_mode]
  exact h k

/-- Settles O28: the row byte after `setLed` is `ledByte` of the one before, read bit by bit; set and then cleared it is
`ledByte` with `false`, which changes the byte unless the bit was 0. -/
theorem setLedWritesOneColumnBit : Obligations.SetLedWritesOneColumnBit := by
  unfold Obligations.SetLedWritesOneColumnBit
  intro c row column s h
  constructor
  · intro state
    refine ⟨_, exec_setLed_eq c row column state h, fun i hi => ?_⟩
    rw [ledWritten_status_own, getLsbD_ledByte _ _ _ hi]
  · refine ⟨_, _, exec_setLed_eq c row column true h,
      exec_setLed_eq c row column false (active_ledWritten c row column true h), ?_, fun i hi other => ?_⟩
    · rw [ledWritten_status_own, ledWritten_status_own, ledByte_false_ledByte_true, ledByte_eq_self_iff]
    · rw [ledWritten_status_own, ledWritten_status_own, ledByte_false_ledByte_true, getLsbD_ledByte _ _ _ hi,
        if_neg other]

/-! ### clearDisplay (41 R140, R141) -/

/-- `clearDisplay` with a valid index completes (41 R140). -/
theorem exec_clearDisplay_eq (c : Position) {s : State} (h : Active s) :
    exec (.clearDisplay c.val) s = .next (rowsCleared c s).advance := by
  show execClearDisplay c.val s = _
  rw [execClearDisplay, whenActive_of_active h, controllerOf_natCast]
  show finish (clearRows c.val s) = _
  rw [clearRows_ok, finish_ok]

/-- The STATUS rows of the named controller are zero and those of the others stay (41 R140, R141). -/
theorem rowsCleared_status_row (c k : Position) (r : Fin 8) (s : State) :
    (rowsCleared c s).status.read (statusAddress k.val r.val) =
      if k = c then 0x00 else s.status.read (statusAddress k.val r.val) := by
  rw [rowsCleared_status]
  have hr := r.isLt
  have range : (c.val * 8 ≤ statusAddress k.val r.val ∧ statusAddress k.val r.val < c.val * 8 + 8) ↔ k = c := by
    rw [statusAddress, Fin.ext_iff]
    omega
  simp only [range]

/-- The registers of the other controllers stay through `clearDisplay` (41 R141). -/
theorem rowsCleared_others {c k : Position} {s : State} (hl : LinesIdle s) (h : k ≠ c) :
    (rowsCleared c s).receiver.controllers[k] = s.receiver.controllers[k] := by
  have unset : s.receiver.controllers = s.receiver.controllers.set c s.receiver.controllers[c] := by simp
  have hn : c.val ≠ k.val := fun e => h (Fin.ext e.symm)
  obtain ⟨controllers, -⟩ := holds_rowsCleared hl unset
  simp [controllers, hn]

/-- In the frame of one controller the two bytes of every other one are the no-op word (40 R115, 42 R164). -/
theorem wireOrder_others {c k : Position} (opcode data : Byte) (h : k ≠ c) :
    (wireOrder c opcode data).reverse[2 * k.val]? = some 0x00 ∧
      (wireOrder c opcode data).reverse[2 * k.val + 1]? = some 0x00 := by
  rcases position_cases c with rfl | rfl <;> rcases position_cases k with rfl | rfl
  · exact absurd rfl h
  · exact ⟨rfl, rfl⟩
  · exact ⟨rfl, rfl⟩
  · exact absurd rfl h

/-- Settles O30: STATUS and the registers row by row of the state `clearDisplay` leaves; its eight frames are all
addressed to the named controller, and so carry the no-op to the others. -/
theorem clearDisplayLeavesOtherControllers : Obligations.ClearDisplayLeavesOtherControllers := by
  unfold Obligations.ClearDisplayLeavesOtherControllers
  intro c s h hl
  refine ⟨_, exec_clearDisplay_eq c h, fun r => ?_, fun k hk r => ?_, fun k hk => ?_, _,
    (State.advance_trace _).trans (rowsCleared_trace c s), rfl, fun w hw k hk => ?_⟩
  · rw [State.advance_status, rowsCleared_status_row, if_pos rfl]
  · rw [State.advance_status, rowsCleared_status_row, if_neg hk]
  · rw [State.advance_receiver, rowsCleared_others hl hk]
  · have addressed : w.1 = c := by
      simp only [List.mem_cons, List.not_mem_nil, or_false] at hw
      rcases hw with rfl | rfl | rfl | rfl | rfl | rfl | rfl | rfl <;> rfl
    exact wireOrder_others _ _ (addressed ▸ hk)

/-! ### The release from shutdown in `initialize` (41 R131, R132) -/

/-- The register writes of `initialize` for one controller before it is released from shutdown (41 R132). -/
def writesBeforeRelease (c : Position) : List RegisterWrite := (initWrites c).dropLast

/-- Shutdown is the last of the thirteen register writes (41 R132). -/
theorem initWrites_eq (c : Position) : initWrites c = writesBeforeRelease c ++ [(c, 12, 1)] := rfl

/-- The registers written before shutdown, in order: display-test, scan-limit, decode-mode, the rows, intensity. -/
theorem writesBeforeRelease_opcodes (c : Position) :
    (writesBeforeRelease c).map (fun w => w.2.1) = [15, 11, 9, 1, 2, 3, 4, 5, 6, 7, 8, 10] := rfl

theorem writesBeforeRelease_position (c : Position) : ∀ w ∈ writesBeforeRelease c, w.1 = c := by
  simp [writesBeforeRelease, initWrites]

/-- What is written before the release is the twelve other registers of this controller and nothing else. -/
theorem mem_writesBeforeRelease {c : Position} {w : RegisterWrite} (hw : w ∈ writesBeforeRelease c) :
    w.1 = c ∧ w.2.1 ≠ 12 := by
  refine ⟨writesBeforeRelease_position c w hw, fun h12 => ?_⟩
  have mem := List.mem_map_of_mem (f := fun w : RegisterWrite => w.2.1) hw
  rw [writesBeforeRelease_opcodes, h12] at mem
  exact absurd mem (by decide)

/-- Each of the twelve registers is written before the release. -/
theorem exists_mem_writesBeforeRelease (c : Position) {opcode : Byte}
    (h : opcode ∈ ([15, 11, 9, 1, 2, 3, 4, 5, 6, 7, 8, 10] : List Byte)) :
    ∃ data, (c, opcode, data) ∈ writesBeforeRelease c := by
  rw [← writesBeforeRelease_opcodes c] at h
  obtain ⟨⟨k, _, data⟩, hw, rfl⟩ := List.mem_map.mp h
  obtain rfl : k = c := writesBeforeRelease_position c _ hw
  exact ⟨data, hw⟩

theorem framesEvents_append (a b : List RegisterWrite) :
    framesEvents (a ++ b) = framesEvents a ++ framesEvents b := List.flatMap_append

/-- The pin events with which `initialize` begins (41 R131). -/
theorem configurePins_trace (s : State) : (configurePins s).trace = s.trace ++ configureEvents := by
  simp [configurePins, configureEvents]

/-- The pin events of `initialize`: the pins, then the thirteen writes of each controller (41 R131). -/
theorem initialised_trace (s : State) :
    (controllerInitialised 1 (controllerInitialised 0 (configurePins s))).advance.trace =
      s.trace ++ configureEvents ++ framesEvents (initWrites 0 ++ initWrites 1) := by
  rw [State.advance_trace, controllerInitialised_trace, controllerInitialised_trace, configurePins_trace,
    framesEvents_append, List.append_assoc _ (framesEvents _)]

/-- Settles O38: the writes of each controller are `writesBeforeRelease` with the shutdown register after them. -/
theorem initialiseReleasesShutdownLast : Obligations.InitialiseReleasesShutdownLast := by
  unfold Obligations.InitialiseReleasesShutdownLast
  intro s
  refine ⟨_, writesBeforeRelease, execInitialise_eq s, ?_,
    fun c => ⟨fun w => mem_writesBeforeRelease, fun opcode => exists_mem_writesBeforeRelease c⟩⟩
  rw [initialised_trace, initWrites_eq 0, initWrites_eq 1, ← List.append_assoc _ (writesBeforeRelease 1)]

end Sys2Proof.Proofs.DisplayStateManager

/-!
The register writes of one controller (42_controller_register_writes): the no-op word, which is also what a frame carries
to every controller it is not addressed to, and the eight words that write a row register.
-/

namespace Sys2Proof.Proofs.ControllerRegisterWrites

open Sys2Proof.Machine

/-! ### A wire word as an instruction (42 R162) -/

/-- A word whose rule has an answer completes, and gives that answer to its own controller. -/
theorem performWire_some {k : Position} {rule : Controller → Option Controller} {s : State} {c : Controller}
    (h : rule s.receiver.controllers[k] = some c) :
    performWire k rule s = .next { s with
      receiver :=
        { s.receiver with
          controllers := s.receiver.controllers.set k c
          latching := s.receiver.latching.erase k } } := by
  rw [performWire, perform_some h]

/-- A word whose rule keeps the controller completes, and changes no register. -/
theorem performWire_same {k : Position} {rule : Controller → Option Controller} {s : State}
    (h : rule s.receiver.controllers[k] = some s.receiver.controllers[k]) :
    performWire k rule s =
      .next { s with receiver := { s.receiver with latching := s.receiver.latching.erase k } } := by
  rw [performWire, perform_same h]

/-! ### The no-op word (42 R164) -/

/-- W.NOOP has an answer for any data: the controller it was given. -/
theorem exec_wNoop_eq (k : Position) (data : Byte) (s : State) :
    exec (.wNoop k data) s =
      .next { s with receiver := { s.receiver with latching := s.receiver.latching.erase k } } :=
  performWire_same rfl

theorem decodeWire_zero (k : Position) : decodeWire k 0x0000 = .ok (.wNoop k 0) := rfl

/-- A raw `transmit` with an index in the chain sends its frame and completes (40 R114). -/
theorem exec_transmit_eq (c : Position) (opcode data : Byte) {s : State} (h : Active s) :
    exec (.transmit c.val opcode data) s = .next (frameSent c opcode data s).advance := by
  show execTransmit c.val opcode data s = _
  rw [execTransmit, whenActive_of_active h, controllerOf_natCast]
  show finish (transmitFrame c.val opcode data s) = _
  rw [transmitFrame_ok, finish_ok]

/-- A frame that begins with the lines idle fills the whole chain, and the latch leaves it there (42 R162, R163). -/
theorem frameSent_chain (c : Position) (opcode data : Byte) {s : State} (hl : LinesIdle s) :
    (frameSent c opcode data s).receiver.chain = frameChain c opcode data := by
  rw [frameSent_receiver c opcode data s hl]
  exact perform_chain c _ _

/-- The word a controller finds in the chain after a frame addressed to another one (42 R163). -/
theorem frameSent_latchedWord_other {c k : Position} (opcode data : Byte) {s : State} (hl : LinesIdle s) (h : k ≠ c) :
    (frameSent c opcode data s).receiver.latchedWord k = some 0x0000 := by
  rw [latchedWord_frame c opcode data _ (frameSent_chain c opcode data hl) k, if_neg h]

/-- Settles O42: the rule of the word answers its own controller; and of the frame a `transmit` sends, every controller
but the addressed one latches the two zero bytes. -/
theorem noopWordChangesNoRegister : Obligations.NoopWordChangesNoRegister := by
  unfold Obligations.NoopWordChangesNoRegister
  refine ⟨exec_wNoop_eq, fun c k opcode data s h hl hk =>
    ⟨_, exec_transmit_eq c opcode data h, ?_, decodeWire_zero k, ?_⟩⟩
  · rw [State.advance_receiver, frameSent_latchedWord_other opcode data hl hk]
  · rw [State.advance_receiver, frameSent_others opcode data hl hk]

/-! ### The eight row words (42 R165 to R172) -/

/-- The words that write a row register, each with its row. -/
def digitWords : List ((Position → Byte → Instr) × Fin 8) :=
  [(Instr.wDigit0, 0), (Instr.wDigit1, 1), (Instr.wDigit2, 2), (Instr.wDigit3, 3), (Instr.wDigit4, 4),
    (Instr.wDigit5, 5), (Instr.wDigit6, 6), (Instr.wDigit7, 7)]

/-- The machine after a row word: row `r` of controller `k` holds the data byte, and the controller owes no word. -/
def digitWritten (k : Position) (r : Fin 8) (data : Byte) (s : State) : State :=
  { s with
    receiver :=
      { s.receiver with
        controllers := s.receiver.controllers.set k
          { s.receiver.controllers[k] with digit := s.receiver.controllers[k].digit.set r (knownReg data) }
        latching := s.receiver.latching.erase k } }

/-- The rule of each row word is the write of its own row. -/
theorem exec_digitWord_eq_performWire {word : (Position → Byte → Instr) × Fin 8} (hw : word ∈ digitWords)
    (k : Position) (data : Byte) (s : State) :
    exec (word.1 k data) s = performWire k (writeDigit word.2 data) s := by
  simp only [digitWords, List.mem_cons, List.not_mem_nil, or_false] at hw
  rcases hw with rfl | rfl | rfl | rfl | rfl | rfl | rfl | rfl <;> rfl

/-- A row word completes with any data (42 R165 to R172). -/
theorem exec_digitWord_eq {word : (Position → Byte → Instr) × Fin 8} (hw : word ∈ digitWords) (k : Position)
    (data : Byte) (s : State) : exec (word.1 k data) s = .next (digitWritten k word.2 data s) := by
  rw [exec_digitWord_eq_performWire hw]
  exact performWire_some rfl

theorem digitWritten_controller (k : Position) (r : Fin 8) (data : Byte) (s : State) :
    (digitWritten k r data s).receiver.controllers[k] =
      { s.receiver.controllers[k] with digit := s.receiver.controllers[k].digit.set r (knownReg data) } := by
  simp [digitWritten]

/-- Where the controller shows its rows raw, the written row shows the bits of the data (42 R165 to R172, R179 case 7). -/
theorem digitWritten_light (k : Position) (r col : Fin 8) (data : Byte) {s : State}
    (htest : s.receiver.controllers[k].test = { value := 0, known := true })
    (hshutdown : s.receiver.controllers[k].shutdown = { value := 1, known := true })
    (hdecode : s.receiver.controllers[k].decode = { value := 0, known := true })
    (hscan : s.receiver.controllers[k].scanLimit = { value := 7, known := true }) :
    (digitWritten k r data s).light k r col = if data.getLsbD (7 - col.val) then .lit else .dark := by
  have row : (s.receiver.controllers[k].digit.set r (knownReg data))[r] = { value := data, known := true } := by
    simp [knownReg]
  rw [State.light, digitWritten_controller]
  exact light_raw _ r col data htest hshutdown hdecode hscan row

/-- Settles O43: all eight words are `writeDigit` of their row, so each leaves `digitWritten`, and what is lit follows
from the row register alone once the controller shows its rows raw. -/
theorem digitWordWritesOneRow : Obligations.DigitWordWritesOneRow := by
  unfold Obligations.DigitWordWritesOneRow
  intro word hw k data s
  exact ⟨_, exec_digitWord_eq hw k data s, rfl, fun htest hshutdown hdecode hscan col =>
    digitWritten_light k word.2 col data htest hshutdown hdecode hscan⟩

end Sys2Proof.Proofs.ControllerRegisterWrites

/-!
The encoding (30_encoding): a command word is its six fields, comparing it with a row of the opcode map compares them
one by one, and so the words the decoder accepts are exactly the encoded instructions.
-/

namespace Sys2Proof.Proofs.Encoding

open Sys2Proof.Machine Sys2Proof.Laws

/-! ### A word and its fields (30_encoding R80, R88) -/

/-- A wire word is its two bytes. -/
theorem packWire_fields (w : WireWord) : packWire (wireData w) (wireOpcode w) = w := by
  rw [packWire, wireData, wireOpcode, BitVec.extractLsb'_append_extractLsb'_eq_extractLsb' (show 8 = 0 + 8 from rfl)]
  exact BitVec.extractLsb'_eq_self

/-- A command word whose `zero` field is 0 is packed from its other fields. -/
theorem packCommand_fields {w : CmdWord} (zero : zeroField w = 0) :
    packCommand (opField w) (sField w) (aField w) (bField w) (cField w) = w := by
  have bit : BitVec.ofBool (sField w) = w.extractLsb' 24 1 := by
    refine BitVec.eq_of_getLsbD_eq fun i hi => ?_
    obtain rfl : i = 0 := by omega
    simp [sField]
  rw [packCommand, bit, ← zero, opField, zeroField, aField, bField, cField]
  rw [BitVec.extractLsb'_append_extractLsb'_eq_extractLsb' (show 28 = 25 + 3 from rfl),
    BitVec.extractLsb'_append_extractLsb'_eq_extractLsb' (show 25 = 24 + 1 from rfl),
    BitVec.extractLsb'_append_extractLsb'_eq_extractLsb' (show 24 = 16 + 8 from rfl),
    BitVec.extractLsb'_append_extractLsb'_eq_extractLsb' (show 16 = 8 + 8 from rfl),
    BitVec.extractLsb'_append_extractLsb'_eq_extractLsb' (show 8 = 0 + 8 from rfl)]
  exact BitVec.extractLsb'_eq_self

/-- A packed command word has `zero` = 0b000 (30_encoding R91). -/
theorem zeroField_packCommand (op : BitVec 4) (s : Bool) (a b c : Byte) : zeroField (packCommand op s a b c) = 0 :=
  (extract_above (k := 17) 25 3 _ c rfl).trans ((extract_above (k := 9) 17 3 _ b rfl).trans
    ((extract_above (k := 1) 9 3 _ a rfl).trans ((extract_above (k := 0) 1 3 _ (BitVec.ofBool s) rfl).trans
      (extract_low op 0))))

/-- A field that carries a signed integer carries its own reading (30_encoding R90). -/
theorem field8_sext8 (f : Byte) : field8 (sext8 f) = f := BitVec.ofInt_toInt

/-- What an 8-bit field is read as fits it (30_encoding R90). -/
theorem fitsField_sext8 (f : Byte) : fitsField (sext8 f) :=
  ⟨BitVec.le_toInt f, Int.le_sub_one_of_lt BitVec.toInt_lt⟩

/-! ### A word compared with a row of the opcode map (30_encoding R89) -/

/-- A word equal to a row's pattern under its mask is so field by field. -/
theorem fields_of_row {w m p : CmdWord} (h : w &&& m = p) :
    opField w &&& opField m = opField p ∧ zeroField w &&& zeroField m = zeroField p ∧
      (sField w && sField m) = sField p ∧ aField w &&& aField m = aField p ∧ bField w &&& bField m = bField p ∧
      cField w &&& cField m = cField p := by
  subst h
  exact ⟨BitVec.extractLsb'_and.symm, BitVec.extractLsb'_and.symm, BitVec.getLsbD_and.symm,
    BitVec.extractLsb'_and.symm, BitVec.extractLsb'_and.symm, BitVec.extractLsb'_and.symm⟩

/-- A row whose mask covers `op` fixes it. -/
theorem opField_of_row {w m p : CmdWord} (h : w &&& m = p) (hm : opField m = BitVec.allOnes 4) :
    opField w = opField p := by
  obtain ⟨op, -⟩ := fields_of_row h
  rwa [hm, BitVec.and_allOnes] at op

/-- The eleven rows of level C (30_encoding R89), as pattern and mask. -/
def commandRows : List (CmdWord × CmdWord) :=
  [(0x10000000, 0xFEFFFFFF), (0x20000000, 0xFFFFFF00), (0x30000000, 0xFF000000), (0x40000000, 0xFFFFFFFF),
    (0x50000000, 0xFE00FFFF), (0x60000000, 0xFF0000FF), (0x70000000, 0xFF0000FF), (0x80000000, 0xFF00FF00),
    (0x90000000, 0xFF00FFFF), (0xA0000000, 0xFE000000), (0xB0000000, 0xFE00FFFF)]

/-- The row of a command is one of the eleven. -/
theorem opcodeRow_mem_commandRows {i : Instr} (h : isCommand i = true) :
    ((opcodeRow i).pattern, (opcodeRow i).mask) ∈ commandRows := by
  cases i with
  | writeBit | writeByte | transmit | initialise | shutdown | setIntensity | setScanLimit | setDecodeMode | clearDisplay
  | setLed | displayTest => simp [opcodeRow, commandRows]
  | wNoop | wDigit0 | wDigit1 | wDigit2 | wDigit3 | wDigit4 | wDigit5 | wDigit6 | wDigit7 | wDecodeMode | wIntensity
  | wScanLimit | wShutdown | wDisplayTest => cases h

/-! ### Decoding a command word (30_encoding R97) -/

/-- The decoder accepts a word exactly when it assembles an instruction whose row the word spells. -/
theorem decodeCommand_eq_ok_iff {w : CmdWord} {i : Instr} :
    decodeCommand w = .ok i ↔ assembleCommand w = some i ∧ w &&& (opcodeRow i).mask = (opcodeRow i).pattern := by
  unfold decodeCommand
  cases assembleCommand w with
  | none => simp
  | some j =>
    by_cases row : w &&& (opcodeRow j).mask = (opcodeRow j).pattern
    · simp only [row, if_true, Except.ok.injEq, Option.some.injEq]
      exact ⟨fun h => ⟨h, h ▸ row⟩, fun h => h.1⟩
    · simp only [row, if_false, Option.some.injEq]
      refine ⟨fun h => ?_, fun ⟨hj, hi⟩ => absurd (hj ▸ hi) row⟩
      split at h <;> cases h

/-- What the decoder assembles, by the `op` of the word. -/
theorem assembleCommand_cases {w : CmdWord} {i : Instr} (h : assembleCommand w = some i) :
    (opField w = 1 ∧ i = .writeBit (sField w)) ∨ (opField w = 2 ∧ i = .writeByte (cField w)) ∨
    (opField w = 3 ∧ i = .transmit (sext8 (aField w)) (bField w) (cField w)) ∨ (opField w = 4 ∧ i = .initialise) ∨
    (opField w = 5 ∧ i = .shutdown (sext8 (aField w)) (sField w)) ∨
    (opField w = 6 ∧ i = .setIntensity (sext8 (aField w)) (sext8 (bField w))) ∨
    (opField w = 7 ∧ i = .setScanLimit (sext8 (aField w)) (sext8 (bField w))) ∨
    (opField w = 8 ∧ i = .setDecodeMode (sext8 (aField w)) (cField w)) ∨
    (opField w = 9 ∧ i = .clearDisplay (sext8 (aField w))) ∨
    (opField w = 10 ∧ i = .setLed (sext8 (aField w)) (sext8 (bField w)) (sext8 (cField w)) (sField w)) ∨
    (opField w = 11 ∧ i = .displayTest (sext8 (aField w)) (sField w)) := by
  have op {n : Nat} (hn : (opField w).toNat = n) : opField w = BitVec.ofNat 4 n := by
    rw [← hn, BitVec.ofNat_toNat, BitVec.setWidth_eq]
  unfold assembleCommand at h
  split at h <;> cases h <;> rename_i hop <;> simp [op hop]

/-- Only commands are assembled. -/
theorem isCommand_of_assembleCommand {w : CmdWord} {i : Instr} (h : assembleCommand w = some i) :
    isCommand i = true := by
  rcases assembleCommand_cases h with ⟨-, rfl⟩ | ⟨-, rfl⟩ | ⟨-, rfl⟩ | ⟨-, rfl⟩ | ⟨-, rfl⟩ | ⟨-, rfl⟩ | ⟨-, rfl⟩ |
    ⟨-, rfl⟩ | ⟨-, rfl⟩ | ⟨-, rfl⟩ | ⟨-, rfl⟩ <;> rfl

/-! ### Decoding what was encoded -/

/-- A packed command word decodes to what is assembled from it when it spells that instruction's row. -/
theorem decode_command {w : CmdWord} {i : Instr} (assembled : assembleCommand w = some i)
    (row : EncodesInRow.Statement i) (word : encode i = .command w) :
    decode (encode i) = .ok i := by
  rw [word]
  refine decodeCommand_eq_ok_iff.mpr ⟨assembled, ?_⟩
  rwa [EncodesInRow.Statement, word] at row

/-- Settles O1: a command word is assembled from the fields it was packed from and spells its row (`EncodesInRow`), an
integer comes back from the field it fits, and a wire word's opcode byte selects its own instruction. -/
theorem decodeEncodeRoundTrip : Obligations.DecodeEncodeRoundTrip := by
  unfold Obligations.DecodeEncodeRoundTrip
  intro i wf
  cases i with
  | writeBit value => exact decode_command (by simp [assembleCommand]) (EncodesInRow.writeBit value) rfl
  | writeByte byte => exact decode_command (by simp [assembleCommand]) (EncodesInRow.writeByte byte) rfl
  | transmit c opcode data =>
    exact decode_command (by simp [assembleCommand, sext8_field8 c wf]) (EncodesInRow.transmit c opcode data) rfl
  | initialise => exact decode_command (by simp [assembleCommand]) EncodesInRow.initialise rfl
  | shutdown c enabled =>
    exact decode_command (by simp [assembleCommand, sext8_field8 c wf]) (EncodesInRow.shutdown c enabled) rfl
  | setIntensity c level =>
    exact decode_command (by simp [assembleCommand, sext8_field8 c wf.1, sext8_field8 level wf.2])
      (EncodesInRow.setIntensity c level) rfl
  | setScanLimit c limit =>
    exact decode_command (by simp [assembleCommand, sext8_field8 c wf.1, sext8_field8 limit wf.2])
      (EncodesInRow.setScanLimit c limit) rfl
  | setDecodeMode c mode =>
    exact decode_command (by simp [assembleCommand, sext8_field8 c wf]) (EncodesInRow.setDecodeMode c mode) rfl
  | clearDisplay c =>
    exact decode_command (by simp [assembleCommand, sext8_field8 c wf]) (EncodesInRow.clearDisplay c) rfl
  | setLed c row column state =>
    obtain ⟨hc, hrow, hcolumn⟩ := wf
    exact decode_command
      (by simp [assembleCommand, sext8_field8 c hc, sext8_field8 row hrow, sext8_field8 column hcolumn])
      (EncodesInRow.setLed c row column state) rfl
  | displayTest c enabled =>
    exact decode_command (by simp [assembleCommand, sext8_field8 c wf]) (EncodesInRow.displayTest c enabled) rfl
  | wNoop | wDigit0 | wDigit1 | wDigit2 | wDigit3 | wDigit4 | wDigit5 | wDigit6 | wDigit7 | wDecodeMode | wIntensity
  | wScanLimit | wShutdown | wDisplayTest => simp [encode, decode, decodeWire]

/-! ### Encoding what was decoded -/

/-- A field that a mask covers whole, compared with 0, is 0. -/
theorem eq_zero_of_and {n : Nat} {x m p : BitVec n} (h : x &&& m = p) (hm : m = BitVec.allOnes n) (hp : p = 0) :
    x = 0 := by
  rwa [hm, hp, BitVec.and_allOnes] at h

/-- Every command's row asks for `zero` = 0b000 (30_encoding R91). -/
theorem zeroField_mask {i : Instr} (h : isCommand i = true) : zeroField (opcodeRow i).mask = BitVec.allOnes 3 := by
  cases i with
  | writeBit | writeByte | transmit | initialise | shutdown | setIntensity | setScanLimit | setDecodeMode | clearDisplay
  | setLed | displayTest => simp [opcodeRow, zeroField]
  | wNoop | wDigit0 | wDigit1 | wDigit2 | wDigit3 | wDigit4 | wDigit5 | wDigit6 | wDigit7 | wDecodeMode | wIntensity
  | wScanLimit | wShutdown | wDisplayTest => cases h

/-- The pattern of every command's row is a packed word with 0 in all fields but `op` (30_encoding R89). -/
theorem pattern_eq_packCommand {i : Instr} (h : isCommand i = true) :
    ∃ op, (opcodeRow i).pattern = packCommand op false 0 0 0 := by
  cases i with
  | writeBit => exact ⟨1, by simp [opcodeRow, packCommand]⟩
  | writeByte => exact ⟨2, by simp [opcodeRow, packCommand]⟩
  | transmit => exact ⟨3, by simp [opcodeRow, packCommand]⟩
  | initialise => exact ⟨4, by simp [opcodeRow, packCommand]⟩
  | shutdown => exact ⟨5, by simp [opcodeRow, packCommand]⟩
  | setIntensity => exact ⟨6, by simp [opcodeRow, packCommand]⟩
  | setScanLimit => exact ⟨7, by simp [opcodeRow, packCommand]⟩
  | setDecodeMode => exact ⟨8, by simp [opcodeRow, packCommand]⟩
  | clearDisplay => exact ⟨9, by simp [opcodeRow, packCommand]⟩
  | setLed => exact ⟨10, by simp [opcodeRow, packCommand]⟩
  | displayTest => exact ⟨11, by simp [opcodeRow, packCommand]⟩
  | wNoop | wDigit0 | wDigit1 | wDigit2 | wDigit3 | wDigit4 | wDigit5 | wDigit6 | wDigit7 | wDecodeMode | wIntensity
  | wScanLimit | wShutdown | wDisplayTest => cases h

/-- The fields of a row's pattern. -/
theorem fields_pattern {i : Instr} (h : isCommand i = true) :
    zeroField (opcodeRow i).pattern = 0 ∧ sField (opcodeRow i).pattern = false ∧ aField (opcodeRow i).pattern = 0 ∧
      bField (opcodeRow i).pattern = 0 ∧ cField (opcodeRow i).pattern = 0 := by
  obtain ⟨op, pattern⟩ := pattern_eq_packCommand h
  rw [pattern]
  exact ⟨zeroField_packCommand .., sField_packCommand .., aField_packCommand .., bField_packCommand ..,
    cField_packCommand ..⟩

/-- A command word the decoder accepts is the encoding of its instruction: the fields the command does not use are 0,
for its row compares them (30_encoding R91). -/
theorem encode_of_decodeCommand {w : CmdWord} {i : Instr} (h : decodeCommand w = .ok i) :
    encode i = .command w := by
  obtain ⟨assembled, row⟩ := decodeCommand_eq_ok_iff.mp h
  have command := isCommand_of_assembleCommand assembled
  obtain ⟨-, zero, s, a, b, c⟩ := fields_of_row row
  obtain ⟨zeroPattern, sPattern, aPattern, bPattern, cPattern⟩ := fields_pattern command
  have packed := packCommand_fields (eq_zero_of_and zero (zeroField_mask command) zeroPattern)
  have noS (hm : sField (opcodeRow i).mask = true) : sField w = false := by
    rwa [hm, Bool.and_true, sPattern] at s
  have noA (hm : aField (opcodeRow i).mask = BitVec.allOnes 8) : aField w = 0 := eq_zero_of_and a hm aPattern
  have noB (hm : bField (opcodeRow i).mask = BitVec.allOnes 8) : bField w = 0 := eq_zero_of_and b hm bPattern
  have noC (hm : cField (opcodeRow i).mask = BitVec.allOnes 8) : cField w = 0 := eq_zero_of_and c hm cPattern
  rw [← packed]
  clear s a b c zero
  rcases assembleCommand_cases assembled with ⟨op, rfl⟩ | ⟨op, rfl⟩ | ⟨op, rfl⟩ | ⟨op, rfl⟩ | ⟨op, rfl⟩ | ⟨op, rfl⟩ |
    ⟨op, rfl⟩ | ⟨op, rfl⟩ | ⟨op, rfl⟩ | ⟨op, rfl⟩ | ⟨op, rfl⟩ <;>
    simp only [opcodeRow] at noS noA noB noC
  · rw [op, noA (by decide), noB (by decide), noC (by decide), encode]
  · rw [op, noS (by decide), noA (by decide), noB (by decide), encode]
  · rw [op, noS (by decide), encode, field8_sext8]
  · rw [op, noS (by decide), noA (by decide), noB (by decide), noC (by decide), encode]
  · rw [op, noB (by decide), noC (by decide), encode, field8_sext8]
  · rw [op, noS (by decide), noC (by decide), encode, field8_sext8, field8_sext8]
  · rw [op, noS (by decide), noC (by decide), encode, field8_sext8, field8_sext8]
  · rw [op, noS (by decide), noB (by decide), encode, field8_sext8]
  · rw [op, noS (by decide), noB (by decide), noC (by decide), encode, field8_sext8]
  · rw [op, encode, field8_sext8, field8_sext8, field8_sext8]
  · rw [op, noB (by decide), noC (by decide), encode, field8_sext8]

/-- What the decoder assembles fits its encoding: every checked operand is read from an 8-bit field. -/
theorem wellFormed_of_assembleCommand {w : CmdWord} {i : Instr} (h : assembleCommand w = some i) : i.WellFormed := by
  rcases assembleCommand_cases h with ⟨-, rfl⟩ | ⟨-, rfl⟩ | ⟨-, rfl⟩ | ⟨-, rfl⟩ | ⟨-, rfl⟩ | ⟨-, rfl⟩ | ⟨-, rfl⟩ |
    ⟨-, rfl⟩ | ⟨-, rfl⟩ | ⟨-, rfl⟩ | ⟨-, rfl⟩
  · trivial
  · trivial
  · exact fitsField_sext8 _
  · trivial
  · exact fitsField_sext8 _
  · exact ⟨fitsField_sext8 _, fitsField_sext8 _⟩
  · exact ⟨fitsField_sext8 _, fitsField_sext8 _⟩
  · exact fitsField_sext8 _
  · exact fitsField_sext8 _
  · exact ⟨fitsField_sext8 _, fitsField_sext8 _, fitsField_sext8 _⟩
  · exact fitsField_sext8 _

/-- A wire word the decoder accepts is the encoding of its instruction, which no operand can make ill-formed. -/
theorem encode_of_decodeWire {k : Position} {w : WireWord} {i : Instr} (h : decodeWire k w = .ok i) :
    i.WellFormed ∧ encode i = .wire k w := by
  have word {n : Nat} (hn : (wireOpcode w).toNat = n) : packWire (wireData w) (BitVec.ofNat 8 n) = w := by
    rw [← hn, BitVec.ofNat_toNat, BitVec.setWidth_eq, packWire_fields]
  unfold decodeWire at h
  split at h <;> cases h <;> exact ⟨trivial, congrArg (Encoded.wire k) (word (by assumption))⟩

/-- Settles O2: an accepted command word has 0 where its command uses no field, and so is packed from the fields its
operands were read from; a wire word is its two bytes. -/
theorem decodedWordIsItsEncoding : Obligations.DecodedWordIsItsEncoding := by
  unfold Obligations.DecodedWordIsItsEncoding
  intro e i h
  cases e with
  | command w =>
    have h : decodeCommand w = .ok i := h
    exact ⟨wellFormed_of_assembleCommand (decodeCommand_eq_ok_iff.mp h).1, encode_of_decodeCommand h⟩
  | wire k w =>
    have h : decodeWire k w = .ok i := h
    exact encode_of_decodeWire h

/-! ### The accepted command words -/

/-- A word that spells one of the eleven rows is accepted: the mask of the row covers `op`, which then selects the
instruction of that row. -/
theorem decodeCommand_of_commandRow {w : CmdWord} {row : CmdWord × CmdWord} (hrow : row ∈ commandRows)
    (h : w &&& row.2 = row.1) : ∃ i, decodeCommand w = .ok i := by
  have masks : ∀ row ∈ commandRows, opField row.2 = BitVec.allOnes 4 := by
    simp [commandRows, opField]
  have op := opField_of_row h (masks row hrow)
  have accepted (i : Instr) (ha : assembleCommand w = some i) (hr : opcodeRow i = ⟨row.1, row.2⟩) :
      ∃ i, decodeCommand w = .ok i :=
    ⟨i, decodeCommand_eq_ok_iff.mpr ⟨ha, by rw [hr, h]⟩⟩
  simp only [commandRows, List.mem_cons, List.not_mem_nil, or_false] at hrow
  rcases hrow with rfl | rfl | rfl | rfl | rfl | rfl | rfl | rfl | rfl | rfl | rfl
  · exact accepted (.writeBit (sField w)) (by rw [assembleCommand, op]; rfl) rfl
  · exact accepted (.writeByte (cField w)) (by rw [assembleCommand, op]; rfl) rfl
  · exact accepted (.transmit (sext8 (aField w)) (bField w) (cField w)) (by rw [assembleCommand, op]; rfl) rfl
  · exact accepted .initialise (by rw [assembleCommand, op]; rfl) rfl
  · exact accepted (.shutdown (sext8 (aField w)) (sField w)) (by rw [assembleCommand, op]; rfl) rfl
  · exact accepted (.setIntensity (sext8 (aField w)) (sext8 (bField w))) (by rw [assembleCommand, op]; rfl) rfl
  · exact accepted (.setScanLimit (sext8 (aField w)) (sext8 (bField w))) (by rw [assembleCommand, op]; rfl) rfl
  · exact accepted (.setDecodeMode (sext8 (aField w)) (cField w)) (by rw [assembleCommand, op]; rfl) rfl
  · exact accepted (.clearDisplay (sext8 (aField w))) (by rw [assembleCommand, op]; rfl) rfl
  · exact accepted (.setLed (sext8 (aField w)) (sext8 (bField w)) (sext8 (cField w)) (sField w))
      (by rw [assembleCommand, op]; rfl) rfl
  · exact accepted (.displayTest (sext8 (aField w)) (sField w)) (by rw [assembleCommand, op]; rfl) rfl

/-- Settles O3: what is accepted spells its instruction's own row, and a word that spells a row has that row's `op`. -/
theorem commandWordsAreTheElevenRows : Obligations.CommandWordsAreTheElevenRows := by
  unfold Obligations.CommandWordsAreTheElevenRows
  intro w
  constructor
  · rintro ⟨i, h⟩
    obtain ⟨assembled, row⟩ := decodeCommand_eq_ok_iff.mp h
    exact ⟨_, opcodeRow_mem_commandRows (isCommand_of_assembleCommand assembled), row⟩
  · rintro ⟨row, hrow, h⟩
    exact decodeCommand_of_commandRow hrow h

/-- Settles O4, by running the decoder on the nine words. -/
theorem specExampleWordsDecode : Obligations.SpecExampleWordsDecode := by
  unfold Obligations.SpecExampleWordsDecode
  decide

end Sys2Proof.Proofs.Encoding

/-!
The wire words that write a single register, the latch and the shift (42_controller_register_writes): a word performed
as a step of its own and a word performed at a LOAD edge are the same rule.
-/

namespace Sys2Proof.Proofs.WireWords

open Sys2Proof.Machine
open Sys2Proof.Proofs.ControllerRegisterWrites (performWire_some)

/-! ### The words with one register (42 R173 to R178) -/

/-- Settles O44: the rule of the word has an answer for any data. -/
theorem decodeModeWordWritesDecode : Obligations.DecodeModeWordWritesDecode := by
  unfold Obligations.DecodeModeWordWritesDecode
  intro k data s
  exact performWire_some rfl

/-- Performing a word changes what controller `k` shows only as its own registers change. -/
theorem light_set_controller {s t : State} {k : Position} {x : Controller}
    (h : t.receiver.controllers = s.receiver.controllers.set k x)
    (same : ∀ r col, x.light r col = s.receiver.controllers[k].light r col) (c : Position) (r col : Fin 8) :
    t.light c r col = s.light c r col := by
  rw [State.light, State.light, h]
  by_cases hc : c = k
  · subst hc
    simpa using same r col
  · have hn : k.val ≠ c.val := fun e => hc (Fin.ext e.symm)
    simp [hn]

/-- Settles O45: legal data has an answer, and no case of R179 asks for the intensity. -/
theorem intensityWordWritesIntensity : Obligations.IntensityWordWritesIntensity := by
  unfold Obligations.IntensityWordWritesIntensity
  intro k data s legal
  refine ⟨_, performWire_some (if_pos legal), rfl, ?_⟩
  exact light_set_controller rfl fun r col => light_intensity _ _ r col

/-- Settles O46: legal data has an answer. -/
theorem scanLimitWordWritesScanLimit : Obligations.ScanLimitWordWritesScanLimit := by
  unfold Obligations.ScanLimitWordWritesScanLimit
  intro k data s legal
  exact performWire_some (if_pos legal)

/-- Settles O47: legal data has an answer. -/
theorem shutdownWordWritesShutdown : Obligations.ShutdownWordWritesShutdown := by
  unfold Obligations.ShutdownWordWritesShutdown
  intro k data s legal
  exact performWire_some (if_pos legal)

/-- Settles O48: legal data has an answer. -/
theorem displayTestWordWritesTest : Obligations.DisplayTestWordWritesTest := by
  unfold Obligations.DisplayTestWordWritesTest
  intro k data s legal
  exact performWire_some (if_pos legal)

/-- Illegal data selects a rule without an answer (42 R178). -/
theorem exec_illegalData {k : Position} {data : Byte} {i : Instr} (s : State)
    (h : (i = .wIntensity k data ∧ 16 ≤ data.toNat) ∨ (i = .wScanLimit k data ∧ 8 ≤ data.toNat) ∨
      (i = .wShutdown k data ∧ 2 ≤ data.toNat) ∨ (i = .wDisplayTest k data ∧ 2 ≤ data.toNat)) :
    ∃ rule, exec i s = performWire k rule s ∧ rule s.receiver.controllers[k] = none := by
  rcases h with ⟨rfl, illegal⟩ | ⟨rfl, illegal⟩ | ⟨rfl, illegal⟩ | ⟨rfl, illegal⟩ <;>
    exact ⟨_, rfl, if_neg (Nat.not_lt.mpr illegal)⟩

/-- Settles O49: the four words have no answer to illegal data, and a rule without one forgets its own controller. -/
theorem illegalWireDataMakesControllerUnknown : Obligations.IllegalWireDataMakesControllerUnknown := by
  unfold Obligations.IllegalWireDataMakesControllerUnknown
  intro k data s i h
  obtain ⟨rule, he, hnone⟩ := exec_illegalData s h
  exact ⟨_, he, rfl, perform_none_own hnone, perform_chain k rule _, perform_latching k rule _,
    fun c hc => perform_others rule _ hc⟩

/-! ### A word as a step and at the latch (42 R162) -/

/-- An instruction decoded from a wire word performs the rule the word's opcode selects. -/
theorem exec_of_decodeWire {k : Position} {w : WireWord} {i : Instr} (h : decodeWire k w = .ok i) (s : State) :
    exec i s = performWire k (wordRule w) s := by
  unfold decodeWire at h
  split at h <;> cases h <;> rename_i opcode <;> simp only [wordRule, wireRule, opcode] <;> rfl

/-- A wire word that does not decode has the rule without an answer (30_encoding R85, 42 R178). -/
theorem wordRule_of_decodeWire_error {k : Position} {w : WireWord} {e : Reject} (h : decodeWire k w = .error e) :
    wordRule w = reservedRule 0 := by
  have reserved : wireRule (wireOpcode w) = reservedRule := by
    unfold wireRule
    split
    case h_15 => rfl
    all_goals
      rename_i opcode
      simp [decodeWire, opcode] at h
  rw [wordRule, reserved]
  rfl

/-- Settles O50: both ways perform the rule of the latched word, and the reserved rule where that word is unknown or
does not decode. -/
theorem stepOfAWordIsTheLatchOfIt : Obligations.StepOfAWordIsTheLatchOfIt := by
  unfold Obligations.StepOfAWordIsTheLatchOfIt
  intro s k rest owed
  simp only [step, owed, fetchWire]
  cases latched : s.receiver.latchedWord k with
  | none => rw [commit_unknown latched]; rfl
  | some w =>
    rw [commit_word latched]
    simp only [decode]
    cases decoded : decodeWire k w with
    | ok i => exact exec_of_decodeWire decoded s
    | error e => rw [wordRule_of_decodeWire_error decoded]; rfl

/-! ### The edge of LOAD (42 R162) -/

/-- A controller whose latched word has an answer takes it. -/
theorem commit_own_some {r : Receiver} {k : Position} {w : WireWord} {after : Controller}
    (hw : r.latchedWord k = some w) (hr : wireRule (wireOpcode w) (wireData w) r.controllers[k] = some after) :
    (r.commit k).controllers[k] = after := by
  rw [commit_word hw, perform_some (rule := wordRule w) hr]
  simp

/-- A controller whose latched word has no answer, or is not known, becomes unknown (42 R178; log 12). -/
theorem commit_own_unknown {r : Receiver} {k : Position}
    (h : ∀ w, r.latchedWord k = some w → wireRule (wireOpcode w) (wireData w) r.controllers[k] = none) :
    (r.commit k).controllers[k].AllUnknown := by
  cases hw : r.latchedWord k with
  | none => rw [commit_unknown hw]; exact perform_none_own rfl
  | some w => rw [commit_word hw]; exact perform_none_own (h w hw)

/-- In a latch each controller performs its own word on its registers as they were. -/
theorem latch_eq_commit (r : Receiver) (k : Position) :
    ∃ q : Receiver, q.chain = r.chain ∧ q.controllers[k] = r.controllers[k] ∧
      r.latch.controllers[k] = (q.commit k).controllers[k] := by
  rw [latch_eq]
  generalize hq : ({ r with latching := [0, 1] } : Receiver) = q
  have chain : q.chain = r.chain := by rw [← hq]
  have controllers : q.controllers = r.controllers := by rw [← hq]
  rcases position_cases k with rfl | rfl
  · exact ⟨q, chain, by rw [controllers], commit_others _ (by decide)⟩
  · exact ⟨q.commit 0, by rw [commit_chain, chain], by rw [commit_others _ (by decide), controllers], rfl⟩

/-- The controllers see a rising edge of LOAD as a latch. -/
theorem pinWrite_load_rising {s : State} (h : s.pins.load = { level := false, dir := .output }) :
    (pinWrite .load true s).receiver = s.receiver.latch := by
  simp only [pinWrite_receiver, Receiver.onWrite, Pins.edge, Pins.wire, Pins.get_load, h]
  rfl

/-- Settles O51: the edge is a latch, a latch is one commit per controller, and a commit is the answer of the word's
rule or an unknown controller. -/
theorem loadEdgeLatchesEveryController : Obligations.LoadEdgeLatchesEveryController := by
  unfold Obligations.LoadEdgeLatchesEveryController
  intro s h
  rw [pinWrite_load_rising h]
  refine ⟨latch_chain _, latch_latching _, fun k => ?_⟩
  obtain ⟨q, chain, own, latched⟩ := latch_eq_commit s.receiver k
  rw [latched, ← own, ← latchedWord_congr chain]
  exact ⟨fun w after hw hr => commit_own_some hw hr, commit_own_unknown⟩

/-! ### The edge of CLK (42 R161, R180) -/

/-- The controllers see a rising edge of CLK with LOAD low as a shift of the level of DATA. -/
theorem pinWrite_clk_shift {s : State} (hdata : s.pins.data.dir = .output)
    (hclk : s.pins.clk = { level := false, dir := .output })
    (hload : s.pins.load = { level := false, dir := .output }) :
    (pinWrite .clk true s).receiver = s.receiver.shift ⟨s.pins.data.level, true⟩ := by
  simp [Receiver.onWrite, Receiver.onClkEdge, Receiver.shiftWire, Pins.edge, Pins.wire, hdata, hclk, hload]

/-- The controllers do not see a falling edge of CLK, nor a write of the level already there. -/
theorem pinWrite_clk_false {s : State} (h : s.pins.clk.dir = .output) :
    (pinWrite .clk false s).receiver = s.receiver := by
  cases level : s.pins.clk.level <;>
    simp [Receiver.onWrite, Receiver.onClkEdge, Pins.edge, Pins.wire, h, level]

/-- The controllers do not see a falling edge of LOAD, nor a write of the level already there. -/
theorem pinWrite_load_false {s : State} (h : s.pins.load.dir = .output) :
    (pinWrite .load false s).receiver = s.receiver := by
  cases level : s.pins.load.level <;>
    simp [Receiver.onWrite, Receiver.onLoadEdge, Pins.edge, Pins.wire, h, level]

/-- Settles O52: the edge of each write, from the wire level before it. -/
theorem risingClockShiftsChain : Obligations.RisingClockShiftsChain := by
  unfold Obligations.RisingClockShiftsChain
  intro s v hdata hload
  refine ⟨fun hclk low => ?_, pinWrite_clk_false, rfl, pinWrite_load_false hload⟩
  have load : s.pins.load = { level := false, dir := .output } := by rw [← low, ← hload]
  rw [pinWrite_clk_shift hdata hclk load]
  rfl

/-- The controllers see a rising edge of CLK with LOAD high as one that leaves the chain unknown (42 R180). -/
theorem pinWrite_clk_forget {s : State} (hclk : s.pins.clk = { level := false, dir := .output })
    (hload : s.pins.load = { level := true, dir := .output }) :
    (pinWrite .clk true s).receiver = s.receiver.forgetChain := by
  simp [Receiver.onWrite, Receiver.onClkEdge, Pins.edge, Pins.wire, hclk, hload]

/-- The chain after it is forgotten: as wide as before, and no bit known. -/
theorem forgetChain_unknown (r : Receiver) :
    r.forgetChain.chain.length = 16 * Config.numControllers ∧ ∀ b ∈ r.forgetChain.chain, b.known = false := by
  refine ⟨by simp, fun b hb => ?_⟩
  rw [Receiver.forgetChain_chain] at hb
  obtain ⟨i, -, rfl⟩ := List.mem_map.mp hb
  rfl

/-- Settles O53: the edge forgets the chain, which is no register. -/
theorem clockWithLoadHighForgetsChain : Obligations.ClockWithLoadHighForgetsChain := by
  unfold Obligations.ClockWithLoadHighForgetsChain
  intro s hclk hload
  rw [pinWrite_clk_forget hclk hload]
  exact ⟨Receiver.forgetChain_controllers _, forgetChain_unknown _⟩

/-! ### The pin primitives (10_state R27, R28) -/

@[simp] theorem get_set_same (ps : Pins) (p : Line) (x : Pin) : (ps.set p x).get p = x := by
  cases p <;> rfl

theorem get_set_other (ps : Pins) {p q : Line} (x : Pin) (h : q ≠ p) : (ps.set p x).get q = ps.get q := by
  cases p <;> cases q <;> simp [Pins.get, Pins.set] at h ⊢

/-- Settles O54: each primitive replaces one pin, conses one event, and else only shows the controllers the wires. -/
theorem pinPrimitives : Obligations.PinPrimitives := by
  unfold Obligations.PinPrimitives
  intro p v s
  have wire : (pinMode p s).pins.wire p = some (s.pins.get p).level := by
    rw [Pins.wire_of_output] <;> simp
  exact ⟨⟨get_set_same _ _ _, wire, pinMode_trace p s, fun q hq => get_set_other _ _ hq, rfl⟩,
    get_set_same _ _ _, pinWrite_trace p v s, fun q hq => get_set_other _ _ hq, rfl⟩

end Sys2Proof.Proofs.WireWords

/-!
What an instruction can do, said once: a command other than `initialize` is turned away, or has one of seven effects
on the machine and then advances CP (60 R197, 10_state R33). The claims about refusals, faults, CP, STATUS and the
block alone are read off that.
-/

namespace Sys2Proof.Proofs.Outcomes

open Sys2Proof.Machine
open Sys2Proof.Proofs.ModeMachine (exec_eq_performWire exec_eq_whenActive whenActive_of_uninit)

/-! ### CP, the host's sequence and the pins after the sub-operations -/

@[simp] theorem configurePins_cp (s : State) : (configurePins s).cp = s.cp := rfl
@[simp] theorem configurePins_program (s : State) : (configurePins s).program = s.program := rfl
@[simp] theorem configurePins_status (s : State) : (configurePins s).status = s.status := rfl

@[simp] theorem rowCleared_cp (c : Position) (r : Fin 8) (s : State) : (rowCleared c r s).cp = s.cp := by
  simp [rowCleared]
@[simp] theorem rowCleared_program (c : Position) (r : Fin 8) (s : State) : (rowCleared c r s).program = s.program := by
  simp [rowCleared]

@[simp] theorem rowsCleared_cp (c : Position) (s : State) : (rowsCleared c s).cp = s.cp := by simp [rowsCleared]
@[simp] theorem rowsCleared_program (c : Position) (s : State) : (rowsCleared c s).program = s.program := by
  simp [rowsCleared]

@[simp] theorem ledWritten_cp (c : Position) (row column : Fin 8) (state : Bool) (s : State) :
    (ledWritten c row column state s).cp = s.cp := by simp [ledWritten]
@[simp] theorem ledWritten_program (c : Position) (row column : Fin 8) (state : Bool) (s : State) :
    (ledWritten c row column state s).program = s.program := by simp [ledWritten]

@[simp] theorem controllerInitialised_cp (c : Position) (s : State) : (controllerInitialised c s).cp = s.cp := by
  simp only [controllerInitialised, setMode_cp, frameSent_cp, rowsCleared_cp]
@[simp] theorem controllerInitialised_program (c : Position) (s : State) :
    (controllerInitialised c s).program = s.program := by
  simp only [controllerInitialised, setMode_program, frameSent_program, rowsCleared_program]

/-! ### The operand checks (41 R130) -/

/-- An index the check turns away is outside the chain. -/
theorem not_inChain_of_controllerOf {x : Int} (h : controllerOf x = none) : ¬ InChain x := fun hx => by
  rw [controllerOf, checked_some hx] at h
  cases h

/-! ### The effects of a command -/

/-- What a command other than `initialize` does to the machine before CP advances, when it is not turned away. -/
inductive Effect where
  /-- An invalid operand (41 R130). -/
  | nothing
  | bit (value : Bool)
  | byte (b : Byte)
  /-- One register write (40 R114). -/
  | write (c : Position) (opcode data : Byte)
  | shutdown (c : Position) (enabled : Bool)
  | clear (c : Position)
  | led (c : Position) (row column : Fin 8) (state : Bool)

/-- The state an effect leaves. -/
def Effect.run (e : Effect) (s : State) : State :=
  match e with
  | .nothing => s
  | .bit v => bitOut v s
  | .byte b => byteOut b s
  | .write c opcode data => frameSent c opcode data s
  | .shutdown c enabled => setMode c (shutdownMode enabled) (frameSent c 12 (shutdownData enabled) s)
  | .clear c => rowsCleared c s
  | .led c row column state => ledWritten c row column state s

/-- The effect leaves STATUS alone. -/
def Effect.KeepsStatus : Effect → Prop
  | .clear _ => False
  | .led _ _ _ _ => False
  | _ => True

/-- The effect writes no row register but together with its STATUS byte, and leaves no controller unknown (10_state
R22). -/
def Effect.KeepsMirror : Effect → Prop
  | .write c opcode data => keepsMirror (.transmit c.val opcode data) = true
  | _ => True

/-- With every controller initialised the command has this effect. -/
structure HasEffect (i : Instr) (e : Effect) : Prop where
  exec_eq : ∀ s, exec i s = whenActive s (.next (e.run s).advance)
  status : (∀ c, i ≠ .clearDisplay c) → (∀ c row column state, i ≠ .setLed c row column state) → e.KeepsStatus
  mirror : keepsMirror i = true → e.KeepsMirror

/-- A command whose operands leave it no effect. -/
theorem hasEffect_nothing {i : Instr} (h : ∀ s, exec i s = whenActive s (silent s)) : HasEffect i .nothing :=
  ⟨h, fun _ _ => trivial, fun _ => trivial⟩

/-- A command that is one register write with a legal word. -/
theorem hasEffect_write {i : Instr} {c : Position} {opcode data : Byte}
    (h : ∀ s, exec i s = whenActive s (finish (transmitFrame c.val opcode data s)))
    (legal : keepsMirror i = true → keepsMirror (.transmit c.val opcode data) = true) :
    HasEffect i (.write c opcode data) :=
  ⟨fun s => by rw [h, transmitFrame_ok]; rfl, fun _ _ => trivial, legal⟩

/-- A byte made from a number below a bound of at most 256 is below that bound. -/
theorem dataByte_toNat_lt {bound n : Nat} (h : n < bound) : (dataByte n).toNat < bound :=
  Nat.lt_of_le_of_lt (by rw [dataByte, BitVec.toNat_ofNat]; exact Nat.mod_le _ _) h

/-- Every command other than `initialize` and `transmit` has one of the effects (41 R130). -/
theorem exists_hasEffect {i : Instr} (hc : isCommand i = true) (hi : i ≠ .initialise)
    (ht : ∀ c opcode data, i ≠ .transmit c opcode data) : ∃ e, HasEffect i e := by
  cases i with
  | initialise => exact absurd rfl hi
  | transmit x opcode data => exact absurd rfl (ht x opcode data)
  | writeBit v => exact ⟨.bit v, fun _ => rfl, fun _ _ => trivial, fun _ => trivial⟩
  | writeByte b => exact ⟨.byte b, fun _ => rfl, fun _ _ => trivial, fun _ => trivial⟩
  | shutdown x enabled =>
    cases hx : controllerOf x with
    | none => exact ⟨_, hasEffect_nothing fun s => by simp only [exec, execShutdown, hx]⟩
    | some c =>
      refine ⟨.shutdown c enabled, fun s => ?_, fun _ _ => trivial, fun _ => trivial⟩
      simp only [exec, execShutdown, hx, transmitFrame_ok]
      rfl
  | setIntensity x level =>
    cases hx : controllerOf x with
    | none => exact ⟨_, hasEffect_nothing fun s => by simp only [exec, execSetIntensity, hx]⟩
    | some c =>
      cases hl : checked 16 level with
      | none => exact ⟨_, hasEffect_nothing fun s => by simp only [exec, execSetIntensity, hx, hl]⟩
      | some l =>
        refine ⟨.write c 10 (dataByte l.val),
          hasEffect_write (fun s => by simp only [exec, execSetIntensity, hx, hl]) fun _ => ?_⟩
        simp [keepsMirror, dataByte_toNat_lt l.isLt]
  | setScanLimit x limit =>
    cases hx : controllerOf x with
    | none => exact ⟨_, hasEffect_nothing fun s => by simp only [exec, execSetScanLimit, hx]⟩
    | some c =>
      cases hl : checked 8 limit with
      | none => exact ⟨_, hasEffect_nothing fun s => by simp only [exec, execSetScanLimit, hx, hl]⟩
      | some l =>
        refine ⟨.write c 11 (dataByte l.val),
          hasEffect_write (fun s => by simp only [exec, execSetScanLimit, hx, hl]) fun _ => ?_⟩
        simp [keepsMirror, dataByte_toNat_lt l.isLt]
  | setDecodeMode x mode =>
    cases hx : controllerOf x with
    | none => exact ⟨_, hasEffect_nothing fun s => by simp only [exec, execSetDecodeMode, hx]⟩
    | some c =>
      exact ⟨.write c 9 mode, hasEffect_write (fun s => by simp only [exec, execSetDecodeMode, hx]) fun _ => rfl⟩
  | clearDisplay x =>
    cases hx : controllerOf x with
    | none => exact ⟨_, hasEffect_nothing fun s => by simp only [exec, execClearDisplay, hx]⟩
    | some c =>
      refine ⟨.clear c, fun s => ?_, fun h _ => absurd rfl (h x), fun _ => trivial⟩
      simp only [exec, execClearDisplay, hx, clearRows_ok]
      rfl
  | setLed x row column state =>
    have invalid (h : controllerOf x = none ∨ checked 8 row = none ∨ checked 8 column = none) :
        HasEffect (.setLed x row column state) .nothing := by
      refine hasEffect_nothing fun s => congrArg (whenActive s) ?_
      split
      next hx hr hcol => simp [hx, hr, hcol] at h
      next => rfl
    cases hx : controllerOf x with
    | none => exact ⟨_, invalid (.inl hx)⟩
    | some c =>
      cases hr : checked 8 row with
      | none => exact ⟨_, invalid (.inr (.inl hr))⟩
      | some r =>
        cases hcol : checked 8 column with
        | none => exact ⟨_, invalid (.inr (.inr hcol))⟩
        | some col =>
          refine ⟨.led c r col state, fun s => ?_, fun _ h => absurd rfl (h x row column state), fun _ => trivial⟩
          simp only [exec, execSetLed, hx, hr, hcol, ledWrite_ok]
          rfl
  | displayTest x enabled =>
    cases hx : controllerOf x with
    | none => exact ⟨_, hasEffect_nothing fun s => by simp only [exec, execDisplayTest, hx]⟩
    | some c =>
      refine ⟨.write c 15 (testData enabled),
        hasEffect_write (fun s => by simp only [exec, execDisplayTest, hx]) fun _ => ?_⟩
      cases enabled <;> rfl
  | wNoop | wDigit0 | wDigit1 | wDigit2 | wDigit3 | wDigit4 | wDigit5 | wDigit6 | wDigit7 | wDecodeMode | wIntensity
  | wScanLimit | wShutdown | wDisplayTest => cases hc

/-- A raw `transmit` is one register write, or is refused for its index (40 R113, R114). -/
theorem transmit_cases (x : Int) (opcode data : Byte) :
    (∃ e, HasEffect (.transmit x opcode data) e) ∨
      ¬ InChain x ∧ ∀ s, exec (.transmit x opcode data) s = whenActive s (.refused (.transmitIndex x)) := by
  cases hx : controllerOf x with
  | none => exact .inr ⟨not_inChain_of_controllerOf hx, fun s => by simp only [exec, execTransmit, hx]⟩
  | some c =>
    exact .inl ⟨.write c opcode data, hasEffect_write (fun s => by simp only [exec, execTransmit, hx]) id⟩

/-- Every command but `initialize` has one of the effects, or is the raw `transmit` the spec refuses. -/
theorem command_cases {i : Instr} (hc : isCommand i = true) (hi : i ≠ .initialise) :
    (∃ e, HasEffect i e) ∨ ∃ x opcode data, i = .transmit x opcode data ∧ ¬ InChain x ∧
      ∀ s, exec i s = whenActive s (.refused (.transmitIndex x)) := by
  by_cases ht : ∃ x opcode data, i = .transmit x opcode data
  · obtain ⟨x, opcode, data, rfl⟩ := ht
    exact (transmit_cases x opcode data).imp_right fun ⟨hx, he⟩ => ⟨x, opcode, data, rfl, hx, he⟩
  · exact .inl (exists_hasEffect hc hi fun x opcode data h => ht ⟨x, opcode, data, h⟩)

/-! ### What an instruction answers -/

/-- With some controller not initialised a command is turned away (70 R223). -/
theorem whenActive_of_not_active {s : State} (h : ¬ Active s) (body : Host.Outcome State Fault Refusal) :
    whenActive s body = .refused .uninitialised :=
  whenActive_of_uninit (not_forall_not.mp h) body

/-- The state after the pins and the register writes of `initialize` (41 R131). -/
def initialised (s : State) : State := controllerInitialised 1 (controllerInitialised 0 (configurePins s))

/-- `initialize` completes in every state. -/
theorem exec_initialise_eq (s : State) : exec .initialise s = .next (initialised s).advance := execInitialise_eq s

/-- The five ways an instruction ends. -/
inductive Answer (i : Instr) (s : State) : Host.Outcome State Fault Refusal → Prop where
  | word (k : Position) (rule : Controller → Option Controller) (h : isCommand i = false) :
      Answer i s (.next { s with receiver := s.receiver.perform k rule })
  | initialised (h : i = .initialise) : Answer i s (.next (initialised s).advance)
  | turnedAway (hc : isCommand i = true) (hi : i ≠ .initialise) (h : ¬ Active s) : Answer i s (.refused .uninitialised)
  | effect (e : Effect) (hc : isCommand i = true) (ha : Active s) (h : HasEffect i e) :
      Answer i s (.next (e.run s).advance)
  | outOfRange (x : Int) (opcode data : Byte) (ha : Active s) (hi : i = .transmit x opcode data) (h : ¬ InChain x) :
      Answer i s (.refused (.transmitIndex x))

/-- Every instruction ends in one of them. -/
theorem answer_exec (i : Instr) (s : State) : Answer i s (exec i s) := by
  cases hc : isCommand i with
  | false =>
    obtain ⟨k, rule, he⟩ := exec_eq_performWire hc s
    rw [he]
    exact .word k rule hc
  | true =>
    by_cases hi : i = .initialise
    · rw [hi, exec_initialise_eq]
      exact .initialised rfl
    by_cases ha : Active s
    · rcases command_cases hc hi with ⟨e, h⟩ | ⟨x, opcode, data, ht, hx, he⟩
      · rw [h.exec_eq, whenActive_of_active ha]
        exact .effect e hc ha h
      · rw [he, whenActive_of_active ha]
        exact .outOfRange x opcode data ha ht hx
    · obtain ⟨body, he⟩ := exec_eq_whenActive hc hi s
      rw [he, whenActive_of_not_active ha]
      exact .turnedAway hc hi ha

/-! ### Refusals (60 R197) -/

/-- Settles O10: every command but `initialize` begins with the check. -/
theorem commandBeforeInitialiseIsRefused : Obligations.CommandBeforeInitialiseIsRefused := by
  unfold Obligations.CommandBeforeInitialiseIsRefused
  intro i s hc hi ha
  obtain ⟨body, he⟩ := exec_eq_whenActive hc hi s
  rw [he, whenActive_of_not_active ha]

/-- Settles O11: after the check of MODE the index is looked at. -/
theorem transmitOutOfRangeIsRefused : Obligations.TransmitOutOfRangeIsRefused := by
  unfold Obligations.TransmitOutOfRangeIsRefused
  intro c opcode data s ha hc
  simp only [exec, execTransmit, controllerOf_none hc, whenActive_of_active ha]

/-- Settles O9: of the ways an instruction ends two are refusals. -/
theorem refusalOnlyWhereTheSpecRefuses : Obligations.RefusalOnlyWhereTheSpecRefuses := by
  unfold Obligations.RefusalOnlyWhereTheSpecRefuses
  intro i s r h
  have answer := answer_exec i s
  generalize exec i s = o at answer h
  cases answer with
  | word | initialised | effect => cases h
  | turnedAway hc hi ha =>
    obtain rfl := Host.Outcome.refused.inj h
    exact .inl ⟨rfl, hc, hi, ha⟩
  | outOfRange x opcode data ha hi hx =>
    obtain rfl := Host.Outcome.refused.inj h
    exact .inr ⟨x, opcode, data, hi, ha, hx, rfl⟩

/-! ### CP and the host's sequence (10_state R33) -/

@[simp] theorem Effect.run_cp (e : Effect) (s : State) : (e.run s).cp = s.cp := by
  cases e <;> simp [Effect.run]

@[simp] theorem Effect.run_program (e : Effect) (s : State) : (e.run s).program = s.program := by
  cases e <;> simp [Effect.run]

@[simp] theorem initialised_cp (s : State) : (initialised s).cp = s.cp := by simp [initialised]
@[simp] theorem initialised_program (s : State) : (initialised s).program = s.program := by simp [initialised]

/-- Settles O12: no effect moves CP before it is advanced, and a wire word does not advance it. -/
theorem commandAdvancesCpByOne : Obligations.CommandAdvancesCpByOne := by
  unfold Obligations.CommandAdvancesCpByOne
  intro i s t h
  have answer := answer_exec i s
  generalize exec i s = o at answer h
  cases answer with
  | word k rule hc =>
    obtain rfl := Host.Outcome.next.inj h
    simp [hc]
  | initialised hi =>
    obtain rfl := Host.Outcome.next.inj h
    simp [hi, isCommand, encode]
  | effect e hc ha he =>
    obtain rfl := Host.Outcome.next.inj h
    simp [hc]
  | turnedAway | outOfRange => cases h

/-! ### STATUS (10_state, section 2) -/

theorem Effect.run_status {e : Effect} (h : e.KeepsStatus) (s : State) : (e.run s).status = s.status := by
  cases e with
  | nothing | bit | byte | write | shutdown => simp only [Effect.run, bitOut_status, byteOut_status, frameSent_status,
      setMode_status]
  | clear | led => exact h.elim

/-- Settles O41: of the effects only two write STATUS, and each belongs to one command. -/
theorem onlyTheNamedCommandsWriteStatus : Obligations.OnlyTheNamedCommandsWriteStatus := by
  unfold Obligations.OnlyTheNamedCommandsWriteStatus
  intro i s t h
  have answer := answer_exec i s
  generalize exec i s = o at answer h
  cases answer with
  | turnedAway | outOfRange => cases h
  | word k rule hc =>
    obtain rfl := Host.Outcome.next.inj h
    exact ⟨fun _ _ => rfl, fun _ => rfl⟩
  | initialised hi =>
    subst hi
    exact ⟨fun ⟨hne, _⟩ => absurd rfl hne, fun hc => nomatch hc⟩
  | effect e hc ha he =>
    obtain rfl := Host.Outcome.next.inj h
    refine ⟨fun ⟨_, hclear, hled⟩ a => ?_, fun hw => nomatch hc.symm.trans hw⟩
    rw [State.advance_status, Effect.run_status (he.status hclear hled)]

/-! ### The block alone (60 R192) -/

theorem sameBlock_bitOut (v : Bool) {s t : State} (h : SameBlock s t) : SameBlock (bitOut v s) (bitOut v t) := by
  rw [sameBlock_iff] at h ⊢
  obtain ⟨h1, h2, h3, h4, h5, h6, h7⟩ := h
  simp [h1, h2, h3, h4, h5, h6, h7]

theorem sameBlock_byteOut (b : Byte) {s t : State} (h : SameBlock s t) : SameBlock (byteOut b s) (byteOut b t) := by
  rw [sameBlock_iff] at h ⊢
  obtain ⟨h1, h2, h3, h4, h5, h6, h7⟩ := h
  simp [h1, h2, h3, h4, h5, h6, h7]

/-- What the controllers hold is no part of the block. -/
theorem sameBlock_setReceiver (r q : Receiver) {s t : State} (h : SameBlock s t) :
    SameBlock { s with receiver := r } { t with receiver := q } := by
  rw [sameBlock_iff] at h ⊢
  exact h

/-- An effect does the same to two states with the same block. -/
theorem Effect.sameBlock_run (e : Effect) {s t : State} (h : SameBlock s t) : SameBlock (e.run s) (e.run t) := by
  cases e with
  | nothing => exact h
  | bit v => exact sameBlock_bitOut v h
  | byte b => exact sameBlock_byteOut b h
  | write c opcode data => exact sameBlock_frameSent c opcode data h
  | shutdown c enabled => exact sameBlock_setMode c _ (sameBlock_frameSent c _ _ h)
  | clear c => exact sameBlock_rowsCleared c h
  | led c row column state => exact sameBlock_ledWritten c row column state h

/-- A command asks only MODE whether it is turned away. -/
theorem sameOutcome_whenActive {s t : State} (h : SameBlock s t) {a b : Host.Outcome State Fault Refusal}
    (hab : SameOutcome a b) : SameOutcome (whenActive s a) (whenActive t b) := by
  obtain ⟨-, -, -, mode, -⟩ := sameBlock_iff.mp h
  have any : s.anyUninit = t.anyUninit := by rw [State.anyUninit, State.anyUninit, mode]
  unfold whenActive
  rw [any]
  split
  · rfl
  · exact hab

/-- Settles O18: a wire word touches the controllers only; a command is turned away by MODE or by its operands, and its
effect on the block is a function of the block. -/
theorem blockIsBlindToControllers : Obligations.BlockIsBlindToControllers := by
  unfold Obligations.BlockIsBlindToControllers
  intro i s t h
  cases hc : isCommand i with
  | false =>
    obtain ⟨k, rule, hs⟩ := exec_eq_performWire hc s
    obtain ⟨j, rule', ht⟩ := exec_eq_performWire hc t
    rw [hs, ht]
    exact sameBlock_setReceiver _ _ h
  | true =>
    by_cases hi : i = .initialise
    · subst hi
      rw [exec_initialise_eq, exec_initialise_eq]
      exact sameBlock_advance (sameBlock_controllerInitialised 1 (sameBlock_controllerInitialised 0
        (sameBlock_configurePins h)))
    rcases command_cases hc hi with ⟨e, he⟩ | ⟨x, opcode, data, -, -, he⟩
    · rw [he.exec_eq, he.exec_eq]
      exact sameOutcome_whenActive h (sameBlock_advance (e.sameBlock_run h))
    · rw [he, he]
      exact sameOutcome_whenActive h rfl

/-! ### Invalid operands (41 R130, 60 R191) -/

/-- With every controller initialised, a command that is silent after the check only advances CP. -/
theorem exec_eq_silent {i : Instr} {s : State} (ha : Active s) (h : exec i s = whenActive s (silent s)) :
    exec i s = .next { s with cp := s.cp + 1 } := by
  rw [h, whenActive_of_active ha]
  rfl

/-- A check of two operands fails when one of them is out of range. -/
theorem controllerOf_or_checked_none {bound : Nat} {c x : Int} (h : ¬ (InChain c ∧ 0 ≤ x ∧ x < bound)) :
    controllerOf c = none ∨ checked bound x = none := by
  by_cases hc : InChain c
  · exact .inr (checked_none fun hx => h ⟨hc, hx⟩)
  · exact .inl (controllerOf_none hc)

theorem setIntensity_invalid {c level : Int} {s : State} (ha : Active s) (h : ¬ (InChain c ∧ 0 ≤ level ∧ level < 16)) :
    exec (.setIntensity c level) s = .next { s with cp := s.cp + 1 } := by
  refine exec_eq_silent ha (congrArg (whenActive s) ?_)
  have invalid := controllerOf_or_checked_none (bound := 16) h
  split
  next hc hl => simp [hc, hl] at invalid
  next => rfl

theorem setScanLimit_invalid {c limit : Int} {s : State} (ha : Active s) (h : ¬ (InChain c ∧ 0 ≤ limit ∧ limit < 8)) :
    exec (.setScanLimit c limit) s = .next { s with cp := s.cp + 1 } := by
  refine exec_eq_silent ha (congrArg (whenActive s) ?_)
  have invalid := controllerOf_or_checked_none (bound := 8) h
  split
  next hc hl => simp [hc, hl] at invalid
  next => rfl

theorem setLed_invalid {c row column : Int} {state : Bool} {s : State} (ha : Active s)
    (h : ¬ (InChain c ∧ (0 ≤ row ∧ row < 8) ∧ 0 ≤ column ∧ column < 8)) :
    exec (.setLed c row column state) s = .next { s with cp := s.cp + 1 } := by
  refine exec_eq_silent ha (congrArg (whenActive s) ?_)
  have invalid : controllerOf c = none ∨ checked 8 row = none ∨ checked 8 column = none := by
    by_cases hr : 0 ≤ row ∧ row < 8
    · have := controllerOf_or_checked_none (bound := 8) (x := column) fun ⟨hc, hcol⟩ => h ⟨hc, hr, hcol⟩
      exact this.imp_right .inr
    · exact .inr (.inl (checked_none hr))
  split
  next hc hr hcol => simp [hc, hr, hcol] at invalid
  next => rfl

/-- Settles O26: each of the seven checks fails, and the command is then silent. -/
theorem invalidOperandIsSilentNoOp : Obligations.InvalidOperandIsSilentNoOp := by
  unfold Obligations.InvalidOperandIsSilentNoOp
  intro s ha
  refine ⟨fun c enabled hc => exec_eq_silent ha ?_, fun c level h => setIntensity_invalid ha h,
    fun c limit h => setScanLimit_invalid ha h, fun c mode hc => exec_eq_silent ha ?_,
    fun c hc => exec_eq_silent ha ?_, fun c row column state h => setLed_invalid ha h,
    fun c enabled hc => exec_eq_silent ha ?_⟩
  · simp only [exec, execShutdown, controllerOf_none hc]
  · simp only [exec, execSetDecodeMode, controllerOf_none hc]
  · simp only [exec, execClearDisplay, controllerOf_none hc]
  · simp only [exec, execDisplayTest, controllerOf_none hc]

/-! ### The step (10_state R33, R34; 30_encoding R92) -/

/-- A step that takes a command word runs the command. -/
theorem step_of_command {s : State} {w : CmdWord} {i : Instr} (owed : s.receiver.latching = [])
    (fetch : fetchCommand s = some w) (decoded : decodeCommand w = .ok i) : step s = exec i s := by
  simp only [step, owed, fetch, decode, decoded]

/-- A step that takes an illegal word is silent. -/
theorem step_of_illegal {s : State} {w : CmdWord} {e : Reject} (owed : s.receiver.latching = [])
    (fetch : fetchCommand s = some w) (illegal : decodeCommand w = .error e) : step s = .next s.advance := by
  simp only [step, owed, fetch, decode, illegal, silent]

/-- Settles O5: a command is decoded at CP; an owed wire word is performed by its rule, which is what its instruction
does. -/
theorem stepRunsDecodedInstruction : Obligations.StepRunsDecodedInstruction := by
  unfold Obligations.StepRunsDecodedInstruction
  refine ⟨fun s w i owed fetch decoded => step_of_command owed fetch decoded,
    fun s k rest w i owed latched decoded => ?_⟩
  have decoded : decodeWire k w = .ok i := decoded
  rw [WireWords.stepOfAWordIsTheLatchOfIt s k rest owed, commit_word latched, WireWords.exec_of_decodeWire decoded,
    performWire]

/-- Settles O6: the step of a word that does not decode only advances CP. -/
theorem illegalCommandWordIsIgnored : Obligations.IllegalCommandWordIsIgnored := by
  unfold Obligations.IllegalCommandWordIsIgnored
  intro s w e owed fetch illegal
  exact step_of_illegal owed fetch illegal

/-- At the end of the host's sequence no word is fetched. -/
theorem step_of_fetch_none {s : State} (owed : s.receiver.latching = []) (fetch : fetchCommand s = none) :
    step s = .next s := by
  simp only [step, owed, fetch]

/-- Settles O7: an index past the end of the sequence fetches nothing. -/
theorem stepIdlesAtTheEnd : Obligations.StepIdlesAtTheEnd := by
  unfold Obligations.StepIdlesAtTheEnd
  intro s owed past
  exact step_of_fetch_none owed (List.getElem?_eq_none past)

/-- What a step does: it serves an owed word, runs a command, ignores an illegal word, or idles. -/
inductive StepAnswer (s : State) : Host.Outcome State Fault Refusal → Prop where
  | owed (k : Position) (rest : List Position) (h : s.receiver.latching = k :: rest) :
      StepAnswer s (.next { s with receiver := s.receiver.commit k })
  | command (w : CmdWord) (i : Instr) (fetch : fetchCommand s = some w) (decoded : decodeCommand w = .ok i) :
      StepAnswer s (exec i s)
  | illegal : StepAnswer s (.next s.advance)
  | idle : StepAnswer s (.next s)

/-- Every step does one of these. -/
theorem stepAnswer_step (s : State) : StepAnswer s (step s) := by
  cases owed : s.receiver.latching with
  | cons k rest =>
    rw [WireWords.stepOfAWordIsTheLatchOfIt s k rest owed]
    exact .owed k rest owed
  | nil =>
    cases fetch : fetchCommand s with
    | none => rw [step_of_fetch_none owed fetch]; exact .idle
    | some w =>
      cases decoded : decodeCommand w with
      | ok i => rw [step_of_command owed fetch decoded]; exact .command w i fetch decoded
      | error e => rw [step_of_illegal owed fetch decoded]; exact .illegal

/-- No instruction answers a fault. -/
theorem exec_ne_fault (i : Instr) (s : State) (f : Fault) : exec i s ≠ .fault f := by
  intro h
  have answer := answer_exec i s
  generalize exec i s = o at answer h
  cases answer <;> cases h

/-- Settles O8: a step answers a next state or what an instruction answers, and none of those is a fault. -/
theorem stepNeverFaults : Obligations.StepNeverFaults := by
  unfold Obligations.StepNeverFaults
  intro s f h
  have answer := stepAnswer_step s
  generalize step s = o at answer h
  cases answer with
  | owed | illegal | idle => cases h
  | command w i fetch decoded => exact exec_ne_fault i s f h

/-! ### TRACE (10_state R29) -/

/-- Every named operation appends to TRACE or leaves it. -/
theorem kept_trace_prefix (before : List PinEvent) : Kept (fun t => before <+: t.trace) where
  mode p s h := by rw [pinMode_trace]; exact h.trans (List.prefix_append _ _)
  write p v s h := by rw [pinWrite_trace]; exact h.trans (List.prefix_append _ _)
  status _ _ _ _ h := h
  frame _ _ _ _ h := h
  setMode _ _ _ h := h
  advance _ h := h
  perform _ _ _ h := h

/-- Settles O13: what every named operation keeps, every step keeps. -/
theorem stepOnlyExtendsTrace : Obligations.StepOnlyExtendsTrace := by
  unfold Obligations.StepOnlyExtendsTrace
  intro s t h
  obtain ⟨gained, hg⟩ := (kept_trace_prefix s.trace).step (List.prefix_refl _) t h
  exact ⟨gained, hg.symm⟩

end Sys2Proof.Proofs.Outcomes

/-!
The Serial Transport's commands (40_serial_transport): one bit or byte outside a frame, the frame of a raw `transmit`
on the pins and on the wire, and the one controller it reaches.
-/

namespace Sys2Proof.Proofs.TransportCommands

open Sys2Proof.Machine
open Sys2Proof.Proofs.SerialTransport (exec_writeByte_eq)
open Sys2Proof.Proofs.ControllerRegisterWrites (exec_transmit_eq frameSent_chain)

/-! ### Raw bits (40 R111, R112) -/

/-- With every controller initialised `writeBit` always completes. -/
theorem exec_writeBit_eq (value : Bool) {s : State} (h : Active s) :
    exec (.writeBit value) s = .next (bitOut value s).advance := by
  show execWriteBit value s = _
  rw [execWriteBit, whenActive_of_active h, finish_ok]

/-- A bit sent with CLK high at its start makes no rising edge (70 R228). -/
theorem bitOut_receiver_clkHigh (v : Bool) {s : State} (h : s.pins.clk = { level := true, dir := .output }) :
    (bitOut v s).receiver = s.receiver := by
  simp [bitOut, Receiver.onWrite, Receiver.onClkEdge, Pins.edge, Pins.wire, h]

/-- Settles O19: the command is `bitOut` and CP advanced; while a frame is shifted that is one shift of the chain, and
from CLK high it is no edge. -/
theorem writeBitDrivesDataThenPulsesClock : Obligations.WriteBitDrivesDataThenPulsesClock := by
  unfold Obligations.WriteBitDrivesDataThenPulsesClock
  intro value s h
  refine ⟨_, exec_writeBit_eq value h, bitOut_trace value s, bitOut_pins value s, fun _ => rfl,
    fun _ => rfl, rfl, rfl, rfl, SerialTransport.bitOut_controllers value s, SerialTransport.bitOut_latching value s,
    fun hdata hclk hload => ?_, bitOut_receiver_clkHigh value⟩
  rw [State.advance_receiver, bitOut_receiver value s ⟨hdata, hclk, hload⟩, Receiver.shift_chain]

/-- A bit sent between commands clocks the controllers with LOAD high, which forgets the chain (42 R180). -/
theorem bitOut_receiver_idle (v : Bool) {s : State} (h : LinesIdle s) :
    (bitOut v s).receiver = s.receiver.forgetChain := by
  obtain ⟨-, hclk, hload⟩ := h
  simp [bitOut, Receiver.onWrite, Receiver.onClkEdge, Pins.edge, Pins.wire, hclk, hload]

/-- A byte sent between commands ends with such a bit. -/
theorem byteOut_receiver_idle (b : Byte) {s : State} (h : LinesIdle s) :
    ∃ r : Receiver, (byteOut b s).receiver = r.forgetChain := by
  rw [byteOut_eq]
  refine ⟨_, bitOut_receiver_idle _ ?_⟩
  iterate 7 apply linesIdle_bitOut
  exact h

/-- Settles O21: each of the two commands ends by forgetting the chain, and neither writes a register or LOAD. -/
theorem rawBitsLeaveRegistersAndForgetChain : Obligations.RawBitsLeaveRegistersAndForgetChain := by
  unfold Obligations.RawBitsLeaveRegistersAndForgetChain
  intro s value byte h hl i hi
  simp only [List.mem_cons, List.not_mem_nil, or_false] at hi
  rcases hi with rfl | rfl
  · obtain ⟨length, unknown⟩ := WireWords.forgetChain_unknown s.receiver
    rw [← bitOut_receiver_idle value hl] at length unknown
    refine ⟨_, exec_writeBit_eq value h, ?_⟩
    rw [State.advance_receiver, linesIdle_advance]
    exact ⟨SerialTransport.bitOut_controllers value s, SerialTransport.bitOut_latching value s, length,
      unknown, linesIdle_bitOut value hl⟩
  · obtain ⟨r, last⟩ := byteOut_receiver_idle byte hl
    obtain ⟨length, unknown⟩ := WireWords.forgetChain_unknown r
    rw [← last] at length unknown
    refine ⟨_, exec_writeByte_eq byte h, ?_⟩
    rw [State.advance_receiver, linesIdle_advance]
    exact ⟨SerialTransport.byteOut_controllers byte s, SerialTransport.byteOut_latching byte s, length,
      unknown, linesIdle_byteOut byte hl⟩

/-! ### The frame on the pins (40 R114) -/

/-- LOAD low, four bytes of 24 events, LOAD high (70 R234). -/
theorem frameEvents_length (c : Position) (opcode data : Byte) : (frameEvents c opcode data).length = 98 := by
  rcases position_cases c with rfl | rfl <;> rfl

/-- Settles O22: `transmit` leaves `frameSent` with CP advanced. -/
theorem transmitSendsOneFrame : Obligations.TransmitSendsOneFrame := by
  unfold Obligations.TransmitSendsOneFrame
  intro c opcode data s h
  exact ⟨_, exec_transmit_eq c opcode data h, transmitted_frameSent c opcode data s, frameEvents_length c opcode data,
    fun a => by simp, by simp⟩

/-! ### The bytes on the wire (40 R115, R116) -/

/-- A byte is its eight bits, the first one bit 7. -/
theorem byteFromBits_getLsbD (b : Byte) :
    byteFromBits (b.getLsbD 7) (b.getLsbD 6) (b.getLsbD 5) (b.getLsbD 4) (b.getLsbD 3) (b.getLsbD 2) (b.getLsbD 1)
      (b.getLsbD 0) = b := by
  revert b; decide

/-- With CLK low, the events of a byte are read as that byte, and leave CLK low. -/
theorem wireBytes_byteEvents (d : Bool) (b : Byte) (rest : List PinEvent) :
    wireBytes d false (byteEvents b ++ rest) = b :: wireBytes (b.getLsbD 0) false rest := by
  simp only [wireBytes, byteEvents, bitEvents, List.cons_append, List.nil_append, wireBits, groupBytes,
    Bool.false_eq_true, if_false, byteFromBits_getLsbD]

/-- With CLK low, the events of bytes sent one after another, then a write of LOAD, are read as those bytes. -/
theorem wireBytes_flatMap (d v : Bool) (bytes : List Byte) :
    wireBytes d false (bytes.flatMap byteEvents ++ [.write .load v]) = bytes := by
  induction bytes generalizing d with
  | nil => rfl
  | cons b rest ih => rw [List.flatMap_cons, List.append_assoc, wireBytes_byteEvents, ih]

/-- Settles O23: LOAD makes no bit, and between its two writes stand the four bytes. -/
theorem transmitWireBytes : Obligations.TransmitWireBytes := by
  unfold Obligations.TransmitWireBytes
  intro c opcode data s h low
  refine ⟨_, frameEvents c opcode data, exec_transmit_eq c opcode data h, frameSent_trace c opcode data s, ?_⟩
  rw [low]
  exact wireBytes_flatMap s.pins.data.level true (wireOrder c opcode data)

/-! ### What the controllers make of it (42 R163, R178) -/

/-- A transmission that begins with the lines idle leaves nothing owed. -/
theorem frameSent_latching (c : Position) (opcode data : Byte) {s : State} (hl : LinesIdle s) :
    (frameSent c opcode data s).receiver.latching = [] := by
  rw [frameSent_receiver c opcode data s hl]

/-- The addressed controller takes the answer of the opcode's rule. -/
theorem frameSent_own_some {c : Position} {opcode data : Byte} {s : State} {after : Controller} (hl : LinesIdle s)
    (h : wireRule opcode data s.receiver.controllers[c] = some after) :
    (frameSent c opcode data s).receiver.controllers[c] = after := by
  rw [frameSent_receiver c opcode data s hl, perform_some (c := after) (by simpa using h)]
  simp

/-- The addressed controller is unknown where the rule has no answer (42 R178). -/
theorem frameSent_own_none {c : Position} {opcode data : Byte} {s : State} (hl : LinesIdle s)
    (h : wireRule opcode data s.receiver.controllers[c] = none) :
    (frameSent c opcode data s).receiver.controllers[c].AllUnknown := by
  rw [frameSent_receiver c opcode data s hl]
  exact perform_none_own (by simpa using h)

/-- Settles O24: the frame fills the chain with each controller's word, and at its end every controller performs its
own, of which all but one are the no-op. -/
theorem transmitReachesOneController : Obligations.TransmitReachesOneController := by
  unfold Obligations.TransmitReachesOneController
  intro c opcode data s h hl
  refine ⟨_, exec_transmit_eq c opcode data h, ?_⟩
  rw [State.advance_receiver]
  refine ⟨frameSent_latching c opcode data hl, latchedWord_frame c opcode data _ (frameSent_chain c opcode data hl),
    fun k hk => frameSent_others opcode data hl hk, ?_⟩
  cases rule : wireRule opcode data s.receiver.controllers[c] with
  | some after => exact frameSent_own_some hl rule
  | none => exact frameSent_own_none hl rule

/-- A reserved opcode selects the rule without an answer (30_encoding R85). -/
theorem wireRule_reserved {opcode : Byte} (h : opcode = 13 ∨ opcode = 14 ∨ 16 ≤ opcode.toNat) :
    wireRule opcode = reservedRule := by
  rcases h with rfl | rfl | large
  · rfl
  · rfl
  · unfold wireRule
    split
    case h_15 => rfl
    all_goals omega

/-- A reserved opcode, or illegal data, has no answer (42 R178). -/
theorem wireRule_eq_none {opcode data : Byte} (x : Controller)
    (h : opcode = 13 ∨ opcode = 14 ∨ 16 ≤ opcode.toNat ∨ (opcode = 10 ∧ 16 ≤ data.toNat) ∨
      (opcode = 11 ∧ 8 ≤ data.toNat) ∨ (opcode = 12 ∧ 2 ≤ data.toNat) ∨ (opcode = 15 ∧ 2 ≤ data.toNat)) :
    wireRule opcode data x = none := by
  have reserved (hr : opcode = 13 ∨ opcode = 14 ∨ 16 ≤ opcode.toNat) : wireRule opcode data x = none := by
    rw [wireRule_reserved hr]; rfl
  rcases h with h | h | h | ⟨rfl, illegal⟩ | ⟨rfl, illegal⟩ | ⟨rfl, illegal⟩ | ⟨rfl, illegal⟩
  · exact reserved (.inl h)
  · exact reserved (.inr (.inl h))
  · exact reserved (.inr (.inr h))
  · exact if_neg (Nat.not_lt.mpr illegal)
  · exact if_neg (Nat.not_lt.mpr illegal)
  · exact if_neg (Nat.not_lt.mpr illegal)
  · exact if_neg (Nat.not_lt.mpr illegal)

/-- Settles O25: such a word has no answer, and so leaves the addressed controller unknown. -/
theorem reservedWordMakesControllerUnknown : Obligations.ReservedWordMakesControllerUnknown := by
  unfold Obligations.ReservedWordMakesControllerUnknown
  intro c opcode data s h hl illegal
  refine ⟨_, exec_transmit_eq c opcode data h, ?_⟩
  rw [State.advance_receiver]
  exact ⟨frameSent_own_none hl (wireRule_eq_none _ illegal), fun k hk => frameSent_others opcode data hl hk⟩

end Sys2Proof.Proofs.TransportCommands

/-!
The Display State Manager's commands (41_display_state_manager): each is one register write, eight of them, or the
twenty-six of `initialize`; what it leaves in the block and in the controllers is what those writes leave.
-/

namespace Sys2Proof.Proofs.ManagerCommands

open Sys2Proof.Machine
open Sys2Proof.Proofs.ModeMachine (exec_shutdown_eq exec_initialise_mode)
open Sys2Proof.Proofs.SerialTransport (exec_writeByte_eq)
open Sys2Proof.Proofs.ControllerRegisterWrites (exec_transmit_eq)
open Sys2Proof.Proofs.DisplayStateManager (exec_setLed_eq exec_clearDisplay_eq initialised_trace)
open Sys2Proof.Proofs.Outcomes (initialised exec_initialise_eq dataByte_toNat_lt)
open Sys2Proof.Proofs.TransportCommands (exec_writeBit_eq frameEvents_length)

/-! ### The commands that are one register write -/

/-- With every controller initialised a command that is one register write completes with its frame sent. -/
theorem exec_registerWrite {i : Instr} {c : Position} {opcode data : Byte} {s : State} (ha : Active s)
    (h : exec i s = whenActive s (finish (transmitFrame c.val opcode data s))) :
    exec i s = .next (frameSent c opcode data s).advance := by
  rw [h, whenActive_of_active ha, transmitFrame_ok, finish_ok]

theorem exec_setIntensity_eq (c : Position) (level : Fin 16) {s : State} (h : Active s) :
    exec (.setIntensity c.val level.val) s = .next (frameSent c 10 (dataByte level.val) s).advance :=
  exec_registerWrite h (by simp only [exec, execSetIntensity, controllerOf_natCast, checked_natCast])

theorem exec_setScanLimit_eq (c : Position) (limit : Fin 8) {s : State} (h : Active s) :
    exec (.setScanLimit c.val limit.val) s = .next (frameSent c 11 (dataByte limit.val) s).advance :=
  exec_registerWrite h (by simp only [exec, execSetScanLimit, controllerOf_natCast, checked_natCast])

theorem exec_setDecodeMode_eq (c : Position) (mode : Byte) {s : State} (h : Active s) :
    exec (.setDecodeMode c.val mode) s = .next (frameSent c 9 mode s).advance :=
  exec_registerWrite h (by simp only [exec, execSetDecodeMode, controllerOf_natCast])

theorem exec_displayTest_eq (c : Position) (enabled : Bool) {s : State} (h : Active s) :
    exec (.displayTest c.val enabled) s = .next (frameSent c 15 (testData enabled) s).advance :=
  exec_registerWrite h (by simp only [exec, execDisplayTest, controllerOf_natCast])

/-- What one register write with a legal word leaves: the frame, STATUS and MODE as they were, and the one controller
with the answer of its rule. -/
theorem registerWritten (c : Position) (opcode data : Byte) (s : State) {after : Controller}
    (rule : wireRule opcode data s.receiver.controllers[c] = some after) :
    Transmitted s (frameSent c opcode data s).advance c opcode data ∧
      SameStatus s (frameSent c opcode data s).advance ∧ (frameSent c opcode data s).advance.mode = s.mode ∧
      (LinesIdle s → Received s (frameSent c opcode data s).advance c after) :=
  ⟨transmitted_frameSent c opcode data s, fun a => by simp, by simp,
    fun hl => received_frameSent c opcode data s hl after rule⟩

theorem wireRule_intensity (level : Fin 16) (x : Controller) :
    wireRule 10 (dataByte level.val) x = some { x with intensity := knownReg (dataByte level.val) } :=
  if_pos (dataByte_toNat_lt level.isLt)

theorem wireRule_scanLimit (limit : Fin 8) (x : Controller) :
    wireRule 11 (dataByte limit.val) x = some { x with scanLimit := knownReg (dataByte limit.val) } :=
  if_pos (dataByte_toNat_lt limit.isLt)

theorem wireRule_shutdown (enabled : Bool) (x : Controller) :
    wireRule 12 (shutdownData enabled) x = some { x with shutdown := knownReg (shutdownData enabled) } := by
  cases enabled <;> rfl

theorem wireRule_test (enabled : Bool) (x : Controller) :
    wireRule 15 (testData enabled) x = some { x with test := knownReg (testData enabled) } := by
  cases enabled <;> rfl

/-- Settles O31: a valid level is one legal register write, an invalid operand is silent. -/
theorem setIntensitySendsLevel : Obligations.SetIntensitySendsLevel := by
  unfold Obligations.SetIntensitySendsLevel
  exact ⟨fun c level s h => ⟨_, exec_setIntensity_eq c level h, registerWritten c 10 _ s (wireRule_intensity level _)⟩,
    fun c level s h invalid => Outcomes.setIntensity_invalid h invalid⟩

/-- Settles O33: any mode byte is legal for its register. -/
theorem setDecodeModePassesModeThrough : Obligations.SetDecodeModePassesModeThrough := by
  unfold Obligations.SetDecodeModePassesModeThrough
  intro c mode s h
  exact ⟨_, exec_setDecodeMode_eq c mode h, registerWritten c 9 mode s rfl⟩

/-- Settles O35: 1 and 0 are legal for the register. -/
theorem displayTestLeavesStatusAndMode : Obligations.DisplayTestLeavesStatusAndMode := by
  unfold Obligations.DisplayTestLeavesStatusAndMode
  intro c enabled s h
  exact ⟨_, exec_displayTest_eq c enabled h, registerWritten c 15 (testData enabled) s (wireRule_test enabled _)⟩

/-- Settles O34: 0 and 1 are legal for the register; MODE of the one controller is set after the frame. -/
theorem shutdownSendsPolarityAndRecordsMode : Obligations.ShutdownSendsPolarityAndRecordsMode := by
  unfold Obligations.ShutdownSendsPolarityAndRecordsMode
  intro c enabled s h
  obtain ⟨transmitted, status, -, received⟩ :=
    registerWritten c 12 (shutdownData enabled) s (wireRule_shutdown enabled _)
  refine ⟨_, exec_shutdown_eq c enabled h, transmitted, status, ?_, fun k hk => ?_, received⟩
  · simp [shutdownMode]
  · have hn : c.val ≠ k.val := fun e => hk (Fin.ext e.symm)
    simp [hn]

/-! ### setScanLimit and what is lit (41 R135, 42 R179 case 6) -/

/-- A controller that is on, not under test and not decoding shows what its scan limit leaves of its rows. -/
theorem light_eq_litByScan {x : Controller} (htest : x.test = { value := 0, known := true })
    (hshutdown : x.shutdown = { value := 1, known := true }) (hdecode : x.decode = { value := 0, known := true })
    (r col : Fin 8) : x.light r col = litByScan x r col := by
  simp [Controller.light, litByDecode, Config.decodeOff, htest, hshutdown, hdecode]

/-- A known scan limit leaves the rows up to it. -/
theorem litByScan_set (x : Controller) (limit r col : Fin 8) :
    litByScan { x with scanLimit := knownReg (dataByte limit.val) } r col =
      if limit.val < r.val then .dark else litByDigit x r col := by
  have value : (dataByte limit.val).toNat = limit.val := by
    rw [dataByte, BitVec.toNat_ofNat, Nat.mod_eq_of_lt]
    have := limit.isLt
    omega
  simp only [litByScan, knownReg, value]
  rfl

/-- What such a controller shows after its scan limit is written. -/
theorem light_setScanLimit {x : Controller} (htest : x.test = { value := 0, known := true })
    (hshutdown : x.shutdown = { value := 1, known := true }) (hdecode : x.decode = { value := 0, known := true })
    (limit r col : Fin 8) :
    Controller.light { x with scanLimit := knownReg (dataByte limit.val) } r col =
      if limit.val < r.val then .dark else litByDigit x r col :=
  (light_eq_litByScan (x := { x with scanLimit := knownReg (dataByte limit.val) }) htest hshutdown hdecode r col).trans
    (litByScan_set x limit r col)

/-- Settles O32: a valid limit is one legal register write; what is lit then follows from the register it wrote. -/
theorem setScanLimitSendsLimit : Obligations.SetScanLimitSendsLimit := by
  unfold Obligations.SetScanLimitSendsLimit
  refine ⟨fun c limit s h => ?_, fun c limit s h invalid => Outcomes.setScanLimit_invalid h invalid⟩
  obtain ⟨transmitted, status, mode, received⟩ := registerWritten c 11 _ s (wireRule_scanLimit limit _)
  refine ⟨_, exec_setScanLimit_eq c limit h, transmitted, status, mode, fun hl => ⟨received hl, ?_⟩⟩
  intro htest hshutdown hdecode r col
  have own := TransportCommands.frameSent_own_some hl (wireRule_scanLimit limit s.receiver.controllers[c])
  rw [State.light, State.advance_receiver, own]
  exact light_setScanLimit htest hshutdown hdecode limit r col

/-! ### setLed (41 R142) -/

@[simp] theorem ledWritten_trace (c : Position) (row column : Fin 8) (state : Bool) (s : State) :
    (ledWritten c row column state s).trace =
      s.trace ++ frameEvents c (rowOpcode row.val)
        (ledByte column state (s.status.read (statusAddress c.val row.val))) := by
  rw [ledWritten, frameSent_trace]
  rfl

theorem ledWritten_status (c : Position) (row column : Fin 8) (state : Bool) (s : State) (a : Nat) :
    (ledWritten c row column state s).status.read a =
      if a = statusAddress c.val row.val then ledByte column state (s.status.read (statusAddress c.val row.val))
      else s.status.read a := by
  rw [ledWritten, frameSent_status, Memory.read_write]

/-- What a transmission leaves is said of the block without STATUS, and of the controllers. -/
theorem transmitted_setStatus (m : Memory) (s t : State) (c : Position) (opcode data : Byte) :
    Transmitted { s with status := m } t c opcode data = Transmitted s t c opcode data := rfl

theorem received_setStatus (m : Memory) (s t : State) (c : Position) (after : Controller) :
    Received { s with status := m } t c after = Received s t c after := rfl

/-- The controllers after `setLed`: the row register takes the new row byte. -/
theorem received_ledWritten (c : Position) (row column : Fin 8) (state : Bool) {s : State} (hl : LinesIdle s) :
    Received s (ledWritten c row column state s).advance c
      { s.receiver.controllers[c] with
        digit := s.receiver.controllers[c].digit.set row
          (knownReg (ledByte column state (s.status.read (statusAddress c.val row.val)))) } := by
  rw [ledWritten]
  rw [← received_setStatus]
  refine received_frameSent c _ _ _ ?_ _ (wireRule_rowOpcode row _ _)
  rw [linesIdle_setStatus]
  exact hl

/-- The block after `setLed`: one frame with the row's opcode and the new row byte. -/
theorem transmitted_ledWritten (c : Position) (row column : Fin 8) (state : Bool) (s : State) :
    Transmitted s (ledWritten c row column state s).advance c (rowOpcode row.val)
      (ledByte column state (s.status.read (statusAddress c.val row.val))) := by
  rw [ledWritten]
  rw [← transmitted_setStatus]
  exact transmitted_frameSent c _ _ _

/-- Settles O27: STATUS takes the byte with the one bit written, and that byte goes out as a register write of its
row. -/
theorem setLedUpdatesStatusAndSendsRow : Obligations.SetLedUpdatesStatusAndSendsRow := by
  unfold Obligations.SetLedUpdatesStatusAndSendsRow
  intro c row column state s h
  refine ⟨_, ledByte column state (s.status.read (statusAddress c.val row.val)), exec_setLed_eq c row column state h,
    rfl, ?_, transmitted_ledWritten c row column state s, ?_, received_ledWritten c row column state⟩
  · exact ledWritten_status c row column state s
  · rw [State.advance_mode, ModeMachine.ledWritten_mode]

/-! ### clearDisplay (41 R140) -/

@[simp] theorem rowCleared_pins (c : Position) (r : Fin 8) (s : State) :
    (rowCleared c r s).pins =
      { data := { s.pins.data with level := if c = 0 then (rowOpcode r.val).getLsbD 0 else false }
        clk := { s.pins.clk with level := false }
        load := { s.pins.load with level := true } } := by
  rw [rowCleared, frameSent_pins]

/-- The pins stand as the last of the eight frames leaves them. -/
theorem pinsAfterFrame_rowsCleared (c : Position) (s : State) : PinsAfterFrame s (rowsCleared c s).advance c 8 := by
  simp only [PinsAfterFrame, State.advance_pins, rowsCleared, rowCleared_pins]
  exact ⟨trivial, trivial, rfl⟩

/-- FRAME holds the last of the eight frames. -/
theorem frameHolds_rowsCleared (c : Position) (s : State) : FrameHolds (rowsCleared c s) c 8 0 := by
  unfold rowsCleared
  exact frameSent_frameHolds c 8 0 _

/-- The controllers after `clearDisplay`: the eight row registers of the one are zero. -/
theorem received_rowsCleared (c : Position) {s : State} (hl : LinesIdle s) :
    Received s (rowsCleared c s).advance c
      { s.receiver.controllers[c] with digit := Vector.replicate 8 (knownReg 0) } := by
  have unset : s.receiver.controllers = s.receiver.controllers.set c s.receiver.controllers[c] := by simp
  rw [Received, State.advance_receiver]
  exact holds_rowsCleared hl unset

/-- Settles O29: STATUS, TRACE and the registers after eight cleared rows, FRAME and the pins after the last of them. -/
theorem clearDisplayZeroesEveryRow : Obligations.ClearDisplayZeroesEveryRow := by
  unfold Obligations.ClearDisplayZeroesEveryRow
  intro c s h
  refine ⟨_, exec_clearDisplay_eq c h, ?_⟩
  simp only [State.advance_status, State.advance_trace, State.advance_mode, State.advance_cp, State.advance_program,
    frameHolds_advance, rowsCleared_trace, ModeMachine.rowsCleared_mode, Outcomes.rowsCleared_cp,
    Outcomes.rowsCleared_program, true_and]
  exact ⟨rowsCleared_status c s, frameHolds_rowsCleared c s, pinsAfterFrame_rowsCleared c s, received_rowsCleared c⟩

/-! ### initialize (41 R131) -/

/-- The pins after the writes for one controller: the last opcode, 12, leaves DATA low. -/
@[simp] theorem controllerInitialised_pins (c : Position) (s : State) :
    (controllerInitialised c s).pins =
      { data := { s.pins.data with level := false }
        clk := { s.pins.clk with level := false }
        load := { s.pins.load with level := true } } := by
  rw [controllerInitialised, setMode_pins]
  simp only [frameSent_pins, rowsCleared, rowCleared_pins]
  rcases position_cases c with rfl | rfl <;> rfl

theorem configurePins_dirs (s : State) :
    (configurePins s).pins.data.dir = .output ∧ (configurePins s).pins.clk.dir = .output ∧
      (configurePins s).pins.load = { level := true, dir := .output } := ⟨rfl, rfl, rfl⟩

/-- STATUS is zero after `initialize`: each controller's rows are cleared. -/
theorem initialised_status (s : State) (a : Nat) :
    (initialised s).status.read a = if a < statusSize then 0x00 else s.status.read a := by
  rw [initialised, controllerInitialised_status, controllerInitialised_status, Outcomes.configurePins_status,
    statusSize_eq]
  by_cases h : a < 16
  · rw [if_pos h]
    split
    · rfl
    · split
      · rfl
      next h0 h1 => simp at h0 h1; omega
  · rw [if_neg h, if_neg (by simp; omega), if_neg (by simp; omega)]

/-- FRAME holds the last register write of `initialize`. -/
theorem frameHolds_initialised (s : State) : FrameHolds (initialised s) 1 12 1 := by
  rw [initialised, controllerInitialised, frameHolds_setMode]
  exact frameSent_frameHolds 1 12 1 _

/-- The lines are idle after `initialize`, whatever they were. -/
theorem linesIdle_initialised (s : State) : LinesIdle (initialised s) :=
  linesIdle_controllerInitialised 1 (linesIdle_controllerInitialised 0 (driven_configurePins s)).driven

/-- The pins after `initialize`. -/
theorem initialised_pins (s : State) :
    (initialised s).pins =
      { data := { level := false, dir := .output }
        clk := { level := false, dir := .output }
        load := { level := true, dir := .output } } := by
  obtain ⟨data, clk, load⟩ := configurePins_dirs s
  simp only [initialised, controllerInitialised_pins, data, clk, load]

/-- Settles O36: the events of the pins and of the twenty-six writes; each field of the block as the last write of it
leaves it. -/
theorem initialiseBlockEffect : Obligations.InitialiseBlockEffect := by
  unfold Obligations.InitialiseBlockEffect
  intro s
  obtain ⟨t, ht, mode⟩ := exec_initialise_mode s
  obtain rfl : (initialised s).advance = t := Host.Outcome.next.inj ((exec_initialise_eq s).symm.trans ht)
  refine ⟨_, ht, initialised_trace s, ?_⟩
  simp only [State.advance_status, State.advance_pins, State.advance_cp, State.advance_program, frameHolds_advance,
    Outcomes.initialised_cp, Outcomes.initialised_program, and_true]
  exact ⟨initialised_status s, mode, frameHolds_initialised s, initialised_pins s⟩

/-- The first write of `initialize` reaches controller 0 from any state: its first bit alone can be lost (70 R228). -/
theorem holds_firstWrite (s : State) :
    Holds (frameSent 0 15 0 (configurePins s)) (configurePins s).receiver.controllers 0
      { (configurePins s).receiver.controllers[0] with test := knownReg 0 } := by
  obtain ⟨chain, receiver⟩ := frameSent_receiver_first 15 0 (configurePins s) (driven_configurePins s) rfl
  have performed : ({ (configurePins s).receiver with chain := chain } : Receiver).perform 0 (wireRule 15 0) =
      { ({ (configurePins s).receiver with chain := chain } : Receiver) with
        controllers := (configurePins s).receiver.controllers.set 0
          { (configurePins s).receiver.controllers[0] with test := knownReg 0 }
        latching := (configurePins s).receiver.latching.erase 0 } := perform_some rfl
  rw [Holds, receiver, performed]
  exact ⟨rfl, rfl⟩

/-- Every controller is configured after `initialize`, and none owes a word: controller 0 by the thirteen writes from
any state, controller 1 by those that follow with the lines idle. -/
theorem controllers_initialised (s : State) :
    (∀ k : Position, (initialised s).receiver.controllers[k] = initialisedController) ∧
      (initialised s).receiver.latching = [] := by
  have idle := linesIdle_controllerInitialised 0 (driven_configurePins s)
  have first := holds_controllerInitialised (driven_configurePins s) (holds_firstWrite s)
  generalize hs1 : controllerInitialised 0 (configurePins s) = s1 at idle first
  have unset : s1.receiver.controllers = s1.receiver.controllers.set 1 s1.receiver.controllers[1] := by simp
  have second := holds_controllerInitialised idle.driven (holds_frameSent (c := 1) 15 0 idle unset rfl)
  obtain ⟨controllers, latching⟩ := second
  have eq : initialised s = controllerInitialised 1 s1 := by rw [initialised, hs1]
  refine ⟨fun k => ?_, by rw [eq]; exact latching⟩
  rw [eq, controllers, first.1]
  rcases position_cases k with rfl | rfl <;> simp

/-- Settles O37: the idle lines and `controllers_initialised`. -/
theorem initialiseConfiguresEveryController : Obligations.InitialiseConfiguresEveryController := by
  unfold Obligations.InitialiseConfiguresEveryController
  intro s
  obtain ⟨controllers, latching⟩ := controllers_initialised s
  refine ⟨_, exec_initialise_eq s, ?_⟩
  rw [Ready, linesIdle_advance, State.advance_receiver]
  exact ⟨⟨linesIdle_initialised s, latching⟩, controllers⟩

/-! ### The pin events (70 R234) -/

/-- Every register write is 98 events. -/
theorem framesEvents_length (writes : List RegisterWrite) : (framesEvents writes).length = 98 * writes.length := by
  induction writes with
  | nil => rfl
  | cons w rest ih =>
    have tail : (rest.flatMap fun w => frameEvents w.1 w.2.1 w.2.2).length = 98 * rest.length := ih
    rw [framesEvents, List.flatMap_cons, List.length_append, frameEvents_length, tail, List.length_cons]
    omega

/-- A command that completes with `n` more events. -/
theorem exists_next_length {i : Instr} {s t : State} {events : List PinEvent} {n : Nat} (h : exec i s = .next t)
    (trace : t.trace = s.trace ++ events) (length : events.length = n) :
    ∃ t, exec i s = .next t ∧ t.trace.length = s.trace.length + n :=
  ⟨t, h, by rw [trace, List.length_append, length]⟩

/-- Settles O39: the length of the events each command appends, 98 for each frame. -/
theorem pinEventCounts : Obligations.PinEventCounts := by
  unfold Obligations.PinEventCounts
  constructor
  · intro s
    refine exists_next_length (exec_initialise_eq s) ((initialised_trace s).trans (List.append_assoc _ _ _)) ?_
    rw [List.length_append, framesEvents_length]
    rfl
  · intro s c value enabled byte data level row column h
    refine ⟨exists_next_length (exec_writeBit_eq value h) (bitOut_trace value s) rfl,
      exists_next_length (exec_writeByte_eq byte h) (byteOut_trace byte s) rfl,
      exists_next_length (exec_clearDisplay_eq c h) ((State.advance_trace _).trans (rowsCleared_trace c s))
        (framesEvents_length _), ?_⟩
    have sent {i : Instr} (opcode data : Byte) (he : exec i s = .next (frameSent c opcode data s).advance) :
        ∃ t, exec i s = .next t ∧ t.trace.length = s.trace.length + 98 :=
      exists_next_length he (frameSent_trace c opcode data s) (frameEvents_length c opcode data)
    intro i hi
    simp only [List.mem_cons, List.not_mem_nil, or_false] at hi
    rcases hi with rfl | rfl | rfl | rfl | rfl | rfl | rfl
    · exact sent _ _ (exec_transmit_eq c byte data h)
    · exact exists_next_length (exec_shutdown_eq c enabled h)
        (by rw [State.advance_trace, setMode_trace, frameSent_trace]) (frameEvents_length _ _ _)
    · exact sent _ _ (exec_setIntensity_eq c level h)
    · exact sent _ _ (exec_setScanLimit_eq c row h)
    · exact sent _ _ (exec_setDecodeMode_eq c byte h)
    · exact exists_next_length (exec_setLed_eq c row column value h)
        ((State.advance_trace _).trans (ledWritten_trace c row column value s)) (frameEvents_length _ _ _)
    · exact sent _ _ (exec_displayTest_eq c enabled h)

end Sys2Proof.Proofs.ManagerCommands

/-!
The invariants every step keeps: the shape of the state, the idle lines between commands (70 R233), and the STATUS
mirror (10_state R22).
-/

namespace Sys2Proof.Proofs.Invariants

open Sys2Proof.Machine
open Sys2Proof.Proofs.Outcomes (Effect HasEffect answer_exec stepAnswer_step initialised)
open Sys2Proof.Proofs.TransportCommands (frameSent_latching frameSent_own_some)

/-! ### The shape of the state (20_memory R50, R51; 42 R161) -/

/-- The chain is 16 x N bits wide. -/
def ChainWide (r : Receiver) : Prop := r.chain.length = 16 * Config.numControllers

theorem chainWide_forgetChain (r : Receiver) : ChainWide r.forgetChain := (WireWords.forgetChain_unknown r).1

theorem chainWide_shift (d : ChainBit) {r : Receiver} (h : ChainWide r) : ChainWide (r.shift d) := by
  rw [ChainWide] at h ⊢
  rw [Receiver.shift_chain, List.length_take, List.length_cons, h]
  omega

theorem chainWide_shiftWire (wire : Option Bool) {r : Receiver} (h : ChainWide r) : ChainWide (r.shiftWire wire) := by
  cases wire with
  | some v => exact chainWide_shift _ h
  | none => exact chainWide_shift ⟨Config.freeBit r.fresh 0, false⟩ h

theorem chainWide_forgetShadow {r : Receiver} (h : ChainWide r) : ChainWide r.forgetShadow := by
  rw [Receiver.forgetShadow, positions_eq]
  exact h

theorem chainWide_onClkEdge (ps : Pins) (edge : Edge) {r : Receiver} (h : ChainWide r) :
    ChainWide (r.onClkEdge ps edge) := by
  rcases SerialTransport.onClkEdge_cases ps edge r with e | e | e <;> rw [e]
  · exact h
  · exact chainWide_shiftWire _ h
  · exact chainWide_forgetChain r

theorem chainWide_onLoadEdge (edge : Edge) {r : Receiver} (h : ChainWide r) : ChainWide (r.onLoadEdge edge) := by
  cases edge with
  | rising => exact (congrArg List.length (latch_chain r)).trans h
  | unknown => exact chainWide_forgetShadow h
  | falling | quiet => exact h

theorem chainWide_onWrite (ps : Pins) (p : Line) (v : Bool) {r : Receiver} (h : ChainWide r) :
    ChainWide (r.onWrite ps p v) := by
  cases p with
  | data => exact h
  | clk => exact chainWide_onClkEdge ps _ h
  | load => exact chainWide_onLoadEdge _ h

theorem chainWide_onMode (ps : Pins) (p : Line) {r : Receiver} (h : ChainWide r) : ChainWide (r.onMode ps p) := by
  unfold Receiver.onMode
  split
  · exact h
  · exact h
  · exact chainWide_forgetChain r
  · exact chainWide_forgetShadow h

theorem chainWide_perform (k : Position) (rule : Controller → Option Controller) {r : Receiver} (h : ChainWide r) :
    ChainWide (r.perform k rule) := (congrArg List.length (perform_chain k rule r)).trans h

/-- Every named operation keeps the canonical form of both spaces and the width of the chain. -/
theorem kept_canonical : Kept Canonical where
  mode p _ := fun ⟨status, frame, chain⟩ => ⟨status, frame, chainWide_onMode _ p chain⟩
  write p v _ := fun ⟨status, frame, chain⟩ => ⟨status, frame, chainWide_onWrite _ p v chain⟩
  status i v _ hi := fun ⟨status, frame, chain⟩ => ⟨Memory.write_wf i v status hi, frame, chain⟩
  frame i v _ hi := fun ⟨status, frame, chain⟩ => ⟨status, Memory.write_wf i v frame hi, chain⟩
  setMode _ _ _ h := h
  advance _ h := h
  perform k rule _ := fun ⟨status, frame, chain⟩ => ⟨status, frame, chainWide_perform k rule chain⟩

/-- Settles O14: what every named operation keeps, every step keeps. -/
theorem stepKeepsCanonical : Obligations.StepKeepsCanonical := by
  unfold Obligations.StepKeepsCanonical
  intro s t h ht
  exact kept_canonical.step h t ht

/-! ### The idle lines (70 R233) -/

/-- An effect leaves the lines idle. -/
theorem linesIdle_run (e : Effect) {s : State} (h : LinesIdle s) : LinesIdle (e.run s) := by
  cases e with
  | nothing => exact h
  | bit v => exact linesIdle_bitOut v h
  | byte b => exact linesIdle_byteOut b h
  | write c opcode data => exact linesIdle_frameSent c opcode data h
  | shutdown c enabled =>
    rw [Effect.run, linesIdle_setMode]
    exact linesIdle_frameSent c 12 (shutdownData enabled) h
  | clear c => exact linesIdle_rowsCleared c h
  | led c row column state => exact linesIdle_ledWritten c row column state h

/-- With every controller initialised some controller is. -/
theorem linesIdle_of_active {s : State} (h : IdleBetweenCommands s) (ha : Active s) : LinesIdle s := h ⟨0, ha 0⟩

/-- Every instruction keeps the lines idle: `initialize` makes them so, every other command needs every controller
initialised and so finds them so. -/
theorem exec_keeps_idle {i : Instr} {s : State} (h : IdleBetweenCommands s) :
    KeptBy IdleBetweenCommands (exec i s) := by
  have answer := answer_exec i s
  generalize exec i s = o at answer
  cases answer with
  | word k rule hc => exact keptBy_next h
  | initialised hi =>
    refine keptBy_next fun _ => ?_
    rw [linesIdle_advance]
    exact ManagerCommands.linesIdle_initialised s
  | effect e hc ha he => exact keptBy_next fun _ => linesIdle_run e (linesIdle_of_active h ha)
  | turnedAway | outOfRange => exact keptBy_refused _

/-- Settles O16: a step that runs no instruction leaves the pins and MODE as they were. -/
theorem stepKeepsIdleLines : Obligations.StepKeepsIdleLines := by
  unfold Obligations.StepKeepsIdleLines
  intro s t h ht
  have answer := stepAnswer_step s
  generalize step s = o at answer ht
  cases answer with
  | owed | illegal | idle => exact Host.Outcome.next.inj ht ▸ h
  | command w i fetch decoded => exact exec_keeps_idle h t ht

/-! ### The STATUS mirror (10_state R22) -/

/-- The lines are idle, nothing is owed, and every row register is known and holds its STATUS byte. -/
def Mirrored (s : State) : Prop :=
  Ready s ∧ ∀ (c : Position) (r : Fin 8),
    s.receiver.controllers[c].digit[r] = { value := s.status.read (statusAddress c.val r.val), known := true }

theorem mirrors_iff (s : State) : Mirrors s ↔ (Active s → Mirrored s) := Iff.rfl

@[simp] theorem mirrored_setMode (c : Position) (m : Mode) (s : State) : Mirrored (setMode c m s) = Mirrored s := rfl
@[simp] theorem mirrored_advance (s : State) : Mirrored s.advance = Mirrored s := rfl

/-- A word that keeps the mirror has an answer, which has the row registers it was given (10_state R22). -/
theorem wireRule_of_keepsMirror {c : Int} {opcode data : Byte} (h : keepsMirror (.transmit c opcode data) = true)
    (x : Controller) : ∃ after, wireRule opcode data x = some after ∧ after.digit = x.digit := by
  simp only [keepsMirror, Bool.or_eq_true, Bool.and_eq_true, beq_iff_eq, decide_eq_true_eq] at h
  rcases h with ((((rfl | rfl) | ⟨rfl, legal⟩) | ⟨rfl, legal⟩) | ⟨rfl, legal⟩) | ⟨rfl, legal⟩
  · exact ⟨_, rfl, rfl⟩
  · exact ⟨_, rfl, rfl⟩
  · exact ⟨_, if_pos legal, rfl⟩
  · exact ⟨_, if_pos legal, rfl⟩
  · exact ⟨_, if_pos legal, rfl⟩
  · exact ⟨_, if_pos legal, rfl⟩

/-- A register write with such a word leaves the row registers of every controller. -/
theorem frameSent_digit {c : Position} {opcode data : Byte} {s : State} (hl : LinesIdle s)
    (legal : keepsMirror (.transmit c.val opcode data) = true) (k : Position) :
    (frameSent c opcode data s).receiver.controllers[k].digit = s.receiver.controllers[k].digit := by
  by_cases hk : k = c
  · subst hk
    obtain ⟨after, rule, digit⟩ := wireRule_of_keepsMirror legal s.receiver.controllers[k]
    rw [frameSent_own_some hl rule, digit]
  · rw [frameSent_others opcode data hl hk]

/-- A register write with such a word keeps the mirror. -/
theorem mirrored_frameSent {c : Position} {opcode data : Byte} {s : State} (h : Mirrored s)
    (legal : keepsMirror (.transmit c.val opcode data) = true) : Mirrored (frameSent c opcode data s) := by
  obtain ⟨⟨hl, -⟩, mirror⟩ := h
  refine ⟨⟨linesIdle_frameSent c opcode data hl, frameSent_latching c opcode data hl⟩, fun k r => ?_⟩
  rw [frameSent_status, ← mirror k r]
  exact congrArg (fun digits : Vector ShadowReg 8 => digits[r]) (frameSent_digit hl legal k)

/-- Bits sent outside a frame reach no register and no STATUS byte. -/
theorem mirrored_bitOut (v : Bool) {s : State} (h : Mirrored s) : Mirrored (bitOut v s) := by
  obtain ⟨⟨hl, owed⟩, mirror⟩ := h
  refine ⟨⟨linesIdle_bitOut v hl, by rw [SerialTransport.bitOut_latching, owed]⟩, fun k r => ?_⟩
  rw [bitOut_status, ← mirror k r, SerialTransport.bitOut_controllers]

theorem mirrored_byteOut (b : Byte) {s : State} (h : Mirrored s) : Mirrored (byteOut b s) := by
  rw [byteOut_eq]
  iterate 8 apply mirrored_bitOut
  exact h

/-- A row that is written to STATUS and sent at once keeps the mirror: what `clearDisplay` and `setLed` are made of
(41 R140, R142). -/
theorem mirrored_row (c : Position) (row : Fin 8) (v : Byte) {s : State} (h : Mirrored s) :
    Mirrored (frameSent c (rowOpcode row.val) v
      { s with status := s.status.write (statusAddress c.val row.val) v }) := by
  obtain ⟨⟨hl, -⟩, mirror⟩ := h
  generalize hs : ({ s with status := s.status.write (statusAddress c.val row.val) v } : State) = s1
  have idle : LinesIdle s1 := by rw [← hs, linesIdle_setStatus]; exact hl
  have controllers : s1.receiver.controllers = s.receiver.controllers := by rw [← hs]
  have status : s1.status = s.status.write (statusAddress c.val row.val) v := by rw [← hs]
  refine ⟨⟨linesIdle_frameSent c _ _ idle, frameSent_latching c _ _ idle⟩, fun k r => ?_⟩
  rw [frameSent_status, status, Memory.read_write]
  by_cases hk : k = c
  · subst hk
    rw [frameSent_own_some idle (wireRule_rowOpcode row v _), controllers]
    by_cases hr : r = row
    · subst hr
      simp [knownReg]
    · have hn : row.val ≠ r.val := fun e => hr (Fin.ext e.symm)
      have address : statusAddress k.val r.val ≠ statusAddress k.val row.val := fun e => hr (statusAddress_inj e).2
      rw [if_neg address, ← mirror k r]
      simp [hn]
  · have address : statusAddress k.val r.val ≠ statusAddress c.val row.val := fun e => hk (statusAddress_inj e).1
    rw [frameSent_others _ _ idle hk, controllers, if_neg address, mirror k r]

theorem mirrored_rowsCleared (c : Position) {s : State} (h : Mirrored s) : Mirrored (rowsCleared c s) := by
  have row (r : Fin 8) {t : State} (ht : Mirrored t) : Mirrored (rowCleared c r t) := mirrored_row c r 0x00 ht
  unfold rowsCleared
  iterate 8 apply row
  exact h

/-- An effect that writes no row register on its own keeps the mirror. -/
theorem mirrored_run {e : Effect} (legal : e.KeepsMirror) {s : State} (h : Mirrored s) : Mirrored (e.run s) := by
  cases e with
  | nothing => exact h
  | bit v => exact mirrored_bitOut v h
  | byte b => exact mirrored_byteOut b h
  | write c opcode data => exact mirrored_frameSent h legal
  | shutdown c enabled =>
    have legal : keepsMirror (.transmit c.val 12 (shutdownData enabled)) = true := by cases enabled <;> rfl
    rw [Effect.run, mirrored_setMode]
    exact mirrored_frameSent h legal
  | clear c => exact mirrored_rowsCleared c h
  | led c row column state => exact mirrored_row c row _ h

/-- After `initialize` every row register and all of STATUS is zero. -/
theorem mirrored_initialised (s : State) : Mirrored (initialised s) := by
  obtain ⟨controllers, owed⟩ := ManagerCommands.controllers_initialised s
  refine ⟨⟨ManagerCommands.linesIdle_initialised s, owed⟩, fun c r => ?_⟩
  rw [controllers c, ManagerCommands.initialised_status, if_pos (statusAddress_lt c r)]
  simp [initialisedController]

/-- A command that keeps the mirror, run where it holds. -/
theorem exec_keeps_mirror {i : Instr} {s : State} (hc : isCommand i = true) (legal : keepsMirror i = true)
    (h : Mirrors s) : KeptBy Mirrors (exec i s) := by
  have answer := answer_exec i s
  generalize exec i s = o at answer
  cases answer with
  | word k rule hw => exact nomatch hc.symm.trans hw
  | initialised hi =>
    refine keptBy_next ((mirrors_iff _).mpr fun _ => ?_)
    rw [mirrored_advance]
    exact mirrored_initialised s
  | effect e _ ha he =>
    refine keptBy_next ((mirrors_iff _).mpr fun _ => ?_)
    rw [mirrored_advance]
    exact mirrored_run (he.mirror legal) (h ha)
  | turnedAway | outOfRange => exact keptBy_refused _

/-- Settles O17: with a word owed not every controller is initialised, and MODE stays; a command is one that keeps the
mirror. -/
theorem stepKeepsStatusMirror : Obligations.StepKeepsStatusMirror := by
  unfold Obligations.StepKeepsStatusMirror
  intro s t h next ht
  have answer := stepAnswer_step s
  generalize step s = o at answer ht
  cases answer with
  | owed k rest owed =>
    obtain rfl := Host.Outcome.next.inj ht
    intro ha
    obtain ⟨⟨-, none⟩, -⟩ := h ha
    exact nomatch owed.symm.trans none
  | illegal | idle => exact Host.Outcome.next.inj ht ▸ h
  | command w i fetch decoded =>
    have assembled := (Encoding.decodeCommand_eq_ok_iff.mp decoded).1
    exact exec_keeps_mirror (Encoding.isCommand_of_assembleCommand assembled) (next w i fetch decoded) h t ht

/-! ### Reset (10_state R37) -/

/-- At reset no controller is initialised. -/
theorem reset_mode (c : Position) : State.reset.mode[c] = .uninit := by simp [State.reset]

/-- Settles O15: nothing is listed in the two spaces and the chain has its width; the other two ask for an initialised
controller. -/
theorem resetMeetsTheInvariants : Obligations.ResetMeetsTheInvariants := by
  unfold Obligations.ResetMeetsTheInvariants
  obtain ⟨status, frame⟩ := reset_memory_wf
  exact ⟨⟨status, frame, rfl⟩, fun ⟨c, hc⟩ => absurd (reset_mode c) hc, fun ha => absurd (reset_mode 0) (ha 0)⟩

/-- Settles O58, field by field of the reset state. -/
theorem resetIsPowerOn : Obligations.ResetIsPowerOn := by
  unfold Obligations.ResetIsPowerOn
  have chain : ∀ b ∈ State.reset.receiver.chain, b.known = false := fun b hb => by
    rw [List.eq_of_mem_replicate hb]
  have registers (k : Position) : State.reset.receiver.controllers[k] = Controller.reset := by
    simp [State.reset, Receiver.reset]
  refine ⟨fun a _ => rfl, rfl, rfl, rfl, reset_mode, rfl, rfl, rfl, rfl, chain, fun k => ?_⟩
  rw [registers k]
  exact ⟨fun r => by simp [Controller.reset, ShadowReg.reset], rfl, rfl, rfl, rfl, rfl⟩

end Sys2Proof.Proofs.Invariants

/-!
What is lit (42 R179): the cases of the function in order, and what `initialize` and then `setLed` show.
-/

namespace Sys2Proof.Proofs.Light

open Sys2Proof.Machine
open Sys2Proof.Proofs.Outcomes (initialised exec_initialise_eq)
open Sys2Proof.Proofs.DisplayStateManager (exec_setLed_eq getLsbD_ledByte)
open Sys2Proof.Proofs.ManagerCommands (controllers_initialised linesIdle_initialised initialised_status
  received_ledWritten)

/-! ### The cases of R179 -/

/-- Case 1: TEST or SHUTDOWN unknown. -/
theorem light_unknown {c : Controller} (h : c.test.known = false ∨ c.shutdown.known = false) (r col : Fin 8) :
    c.light r col = .unknown := by
  rcases h with h | h <;> simp [Controller.light, h]

/-- Cases 2 to 4: TEST and SHUTDOWN known decide, but for a controller that is on and not under test. -/
theorem light_of_known {c : Controller} (htest : c.test.known = true) (hshutdown : c.shutdown.known = true)
    (r col : Fin 8) : c.light r col =
      if c.test.value = 1 ∧ c.shutdown.value = 1 then .lit
      else if c.test.value = 1 ∧ c.shutdown.value = 0 then .unspecified
      else if c.shutdown.value = 0 then .dark else litByDecode c r col := by
  simp only [Controller.light, htest, hshutdown]
  rfl

/-- Case 5 with its register known: DECODE other than 0x00 is unspecified. -/
theorem litByDecode_of_known {c : Controller} (h : c.decode.known = true) (r col : Fin 8) :
    litByDecode c r col = if c.decode.value ≠ 0 then .unspecified else litByScan c r col := by
  simp only [litByDecode, h, Config.decodeOff]
  rfl

/-- Case 6 with its register known: a row above the limit is dark. -/
theorem litByScan_of_known {c : Controller} (h : c.scanLimit.known = true) (r col : Fin 8) :
    litByScan c r col = if c.scanLimit.value.toNat < r.val then .dark else litByDigit c r col := by
  simp only [litByScan, h]
  rfl

/-- Case 7 with its register known: the row register's bit. -/
theorem litByDigit_of_known {c : Controller} {r : Fin 8} (h : c.digit[r].known = true) (col : Fin 8) :
    litByDigit c r col = if c.digit[r].value.getLsbD (7 - col.val) then .lit else .dark := by
  simp only [litByDigit, h, columnBit]
  rfl

theorem litByDecode_unknown {c : Controller} (h : c.decode.known = false) (r col : Fin 8) :
    litByDecode c r col = .unknown := by
  simp [litByDecode, h]

theorem litByScan_unknown {c : Controller} (h : c.scanLimit.known = false) (r col : Fin 8) :
    litByScan c r col = .unknown := by
  simp [litByScan, h]

theorem litByDigit_unknown {c : Controller} {r : Fin 8} (h : c.digit[r].known = false) (col : Fin 8) :
    litByDigit c r col = .unknown := by
  simp only [litByDigit, h]
  rfl

/-- Settles O55: each case from the equation of its function, with the registers the earlier cases asked for known. -/
theorem lightFollowsTheSevenCases : Obligations.LightFollowsTheSevenCases := by
  unfold Obligations.LightFollowsTheSevenCases
  intro c r col
  refine ⟨fun h => light_unknown h r col, fun htest hshutdown => ?_⟩
  rw [light_of_known htest hshutdown]
  refine ⟨fun t1 s1 => if_pos ⟨t1, s1⟩, fun t1 s0 => ?_, fun t0 s0 => ?_, fun t0 s1 => ?_⟩
  · simp [t1, s0]
  · simp [t0, s0]
  · rw [if_neg (by simp [t0]), if_neg (by simp [t0]), if_neg (by simp [s1])]
    refine ⟨fun h => litByDecode_unknown h r col, fun h hd => ?_, fun h hd => ?_⟩
    · rw [litByDecode_of_known h, if_pos hd]
    · rw [litByDecode_of_known h, if_neg (not_not.mpr hd)]
      refine ⟨fun h => litByScan_unknown h r col, fun h above => ?_, fun h scanned => ?_⟩
      · rw [litByScan_of_known h, if_pos above]
      · rw [litByScan_of_known h, if_neg (Nat.not_lt.mpr scanned)]
        exact ⟨fun h => litByDigit_unknown h col, fun h => litByDigit_of_known h col⟩

/-- Settles O56: under the mirror the row register is the STATUS byte. -/
theorem litIsTheStatusBit : Obligations.LitIsTheStatusBit := by
  unfold Obligations.LitIsTheStatusBit
  intro s k r col mirrors active htest hshutdown hdecode hscan
  obtain ⟨-, mirror⟩ := mirrors active
  exact light_raw _ r col _ htest hshutdown hdecode hscan (mirror k r)

/-! ### initialize, then setLed (41 R131, R142) -/

/-- A controller right after `initialize` shows its row registers raw, whatever they hold. -/
theorem light_initialisedController (digits : Vector ShadowReg 8) (r col : Fin 8) {b : Byte}
    (h : digits[r] = { value := b, known := true }) :
    Controller.light { initialisedController with digit := digits } r col =
      if b.getLsbD (7 - col.val) then .lit else .dark :=
  light_raw { initialisedController with digit := digits } r col b rfl rfl rfl rfl h

/-- Its rows are all dark. -/
theorem light_initialisedController_dark (r col : Fin 8) : initialisedController.light r col = .dark := by
  have row : initialisedController.digit[r] = { value := 0, known := true } := by simp [initialisedController]
  have raw := light_initialisedController _ r col row
  simpa using raw

/-- Two columns have the same bit of the row byte exactly when they are the same. -/
theorem columnIndex_eq_iff (col column : Fin 8) : 7 - col.val = 7 - column.val ↔ col = column := by
  rw [Fin.ext_iff]
  omega

/-- One LED set in a dark row lights that LED and no other of its controller. -/
theorem light_one_led (row column r col : Fin 8) :
    Controller.light { initialisedController with
        digit := initialisedController.digit.set row (knownReg (ledByte column true 0)) } r col =
      if r = row ∧ col = column then .lit else .dark := by
  by_cases hr : r = row
  · subst hr
    rw [light_initialisedController (b := ledByte column true 0) _ r col (by simp [knownReg]),
      getLsbD_ledByte _ _ _ (by omega)]
    simp [columnIndex_eq_iff]
  · have hn : row.val ≠ r.val := fun e => hr (Fin.ext e.symm)
    rw [light_initialisedController (b := 0) _ r col (by simp [hn, initialisedController])]
    simp [hr]

/-- After `initialize` every controller is initialised. -/
theorem active_initialised (s : State) : Active (initialised s).advance := by
  obtain ⟨t, ht, mode⟩ := ModeMachine.exec_initialise_mode s
  obtain rfl : (initialised s).advance = t := Host.Outcome.next.inj ((exec_initialise_eq s).symm.trans ht)
  intro c
  rw [mode c]
  decide

/-- The controllers after `initialize` and then one LED set: the row byte in STATUS was zero. -/
theorem controllers_ledWritten_initialised (s : State) (c : Position) (row column : Fin 8) (k : Position) :
    (ledWritten c row column true (initialised s).advance).advance.receiver.controllers[k] =
      if k = c then
        { initialisedController with
          digit := initialisedController.digit.set row (knownReg (ledByte column true 0)) }
      else initialisedController := by
  obtain ⟨controllers, -⟩ := controllers_initialised s
  have idle : LinesIdle (initialised s).advance := by
    rw [linesIdle_advance]
    exact linesIdle_initialised s
  obtain ⟨received, -⟩ := received_ledWritten c row column true idle
  have zero : (initialised s).advance.status.read (statusAddress c.val row.val) = 0 := by
    rw [State.advance_status, initialised_status, if_pos (statusAddress_lt c row)]
  rw [received, zero, State.advance_receiver]
  by_cases hk : k = c
  · subst hk
    simp [controllers]
  · have hn : c.val ≠ k.val := fun e => hk (Fin.ext e.symm)
    rw [if_neg hk, ← controllers k]
    simp [hn]

/-- Settles O57: after `initialize` every controller shows eight dark rows raw; `setLed` then writes the one bit of
the one row register. -/
theorem initialiseDarkensThenSetLedLightsOne : Obligations.InitialiseDarkensThenSetLedLightsOne := by
  unfold Obligations.InitialiseDarkensThenSetLedLightsOne
  intro s
  obtain ⟨controllers, -⟩ := controllers_initialised s
  refine ⟨_, exec_initialise_eq s, fun k r col => ?_, fun c row column =>
    ⟨_, exec_setLed_eq c row column true (active_initialised s), fun k r col => ?_⟩⟩
  · rw [State.light, State.advance_receiver, controllers k, light_initialisedController_dark]
  · rw [State.light, controllers_ledWritten_initialised]
    by_cases hk : k = c
    · rw [if_pos hk, light_one_led]
      simp [hk]
    · rw [if_neg hk, light_initialisedController_dark]
      simp [hk]

end Sys2Proof.Proofs.Light
